-- ==== Sys2Proof/Word.lean ====
section
/-! DEFINITION. The word types of the SM-AES core (00_scope R10, R11): bytes, dwords (also the 32-bit control registers)
and 128-bit values. Their views and byte order are in Machine/Bits.lean. -/

namespace Sys2Proof

/-- A byte (00_scope R10). -/
abbrev Byte := BitVec 8

/-- A 32-bit value: a dword of a block (00_scope R11), a command word, or a 32-bit control register (10_state R28). -/
abbrev Word := BitVec 32

/-- A 128-bit value: a block, a key, a round key, a 128-bit register (00_scope R11). Bit 0 is the least significant. -/
abbrev Block := BitVec 128

/-- A round-key schedule: exactly 11 round keys (00_scope R8 `NRK`, 10_state R26). -/
abbrev Schedule := Vector Block 11

end Sys2Proof
end

