-- ==== Sys2Proof/Machine/Bits.lean ====
section
/-! DEFINITION. The views of 128-bit values and dwords (00_scope R11): bytes, dwords, the state matrix `s[r][c] = b[r + 4c]`.
Byte `i` is bits `8i+7:8i`; dword `j` is bits `32j+31:32j`. -/

namespace Sys2Proof

/-- `V.b[i]` (00_scope R11). -/
def byteOf (V : Block) (i : Nat) : Byte := V.extractLsb' (8 * i) 8

/-- `V.d[j]` (00_scope R11). -/
def dwordOf (V : Block) (j : Nat) : Word := V.extractLsb' (32 * j) 32

/-- The 128-bit value whose byte `i` is `f i`, `i = 0..15` (00_scope R11). -/
def ofBytes (f : Nat → Byte) : Block :=
  f 15 ++ f 14 ++ f 13 ++ f 12 ++ f 11 ++ f 10 ++ f 9 ++ f 8 ++ f 7 ++ f 6 ++ f 5 ++ f 4 ++ f 3 ++ f 2 ++ f 1 ++ f 0

/-- The 128-bit value whose dword `j` is `f j`, `j = 0..3` (00_scope R11). -/
def ofDwords (f : Nat → Word) : Block := f 3 ++ f 2 ++ f 1 ++ f 0

/-- Byte `i` of a dword, byte 0 in bits 7:0 (00_scope R11). -/
def dwordByte (w : Word) (i : Nat) : Byte := w.extractLsb' (8 * i) 8

/-- The dword of four bytes, `b0` in bits 7:0. -/
def dwordOfBytes (b0 b1 b2 b3 : Byte) : Word := b3 ++ b2 ++ b1 ++ b0

/-- A byte-string literal `h"..."`: the list's first byte is `b[0]` (00_scope R11). Bytes past the list are 0. -/
def ofByteList (l : List Nat) : Block := ofBytes (fun i => BitVec.ofNat 8 (l.getD i 0))

end Sys2Proof
end

