-- ==== Sys2Proof/Machine/Aes.lean ====
section
/-! DEFINITION. The byte-level functions under the primitives (40_primitives R120 to R130) and the nine data primitives as
functions of their operands (R140 to R148). -/

namespace Sys2Proof

/-- Multiplication by `x` in GF(2^8) modulo `0x11B` (40_primitives R121). -/
def xtime (a : Byte) : Byte := (a <<< 1) ^^^ (if a.getLsbD 7 then 0x1B#8 else 0x00#8)

/-- `xtime` applied `n` times (40_primitives R121 `xtime^n`). -/
def xtimes : Nat → Byte → Byte
  | 0, a => a
  | n + 1, a => xtime (xtimes n a)

/-- The field product `a * b` (40_primitives R121): the exclusive or over the bits `i` of `b` that are 1 of `xtime^i(a)`. -/
def gmul (a b : Byte) : Byte :=
  (List.range 8).foldl (fun acc i => acc ^^^ (if b.getLsbD i then xtimes i a else 0)) 0

/-- `a` squared `n` times, `a^(2^n)`. -/
def gsquares : Nat → Byte → Byte
  | 0, a => a
  | n + 1, a => gmul (gsquares n a) (gsquares n a)

/-- The multiplicative inverse with `inv(0) = 0` (40_primitives R123), computed as `a^254 = a^2 * a^4 * ... * a^128`; that it
is the inverse R123 defines is `Obligations.FieldInverse`. -/
def gfInv (a : Byte) : Byte :=
  [2, 3, 4, 5, 6, 7].foldl (fun acc n => gmul acc (gsquares n a)) (gsquares 1 a)

/-- The substitution value by its construction (40_primitives R124): the inverse, then the affine map. -/
def sboxByFormula (a : Byte) : Byte :=
  let b := gfInv a
  b ^^^ b.rotateLeft 1 ^^^ b.rotateLeft 2 ^^^ b.rotateLeft 3 ^^^ b.rotateLeft 4 ^^^ 0x63#8

/-- The table `SBOX`, row = high nibble, column = low nibble (40_primitives R124). -/
def sboxRows : List (List Nat) :=
  [[0x63, 0x7c, 0x77, 0x7b, 0xf2, 0x6b, 0x6f, 0xc5, 0x30, 0x01, 0x67, 0x2b, 0xfe, 0xd7, 0xab, 0x76],
   [0xca, 0x82, 0xc9, 0x7d, 0xfa, 0x59, 0x47, 0xf0, 0xad, 0xd4, 0xa2, 0xaf, 0x9c, 0xa4, 0x72, 0xc0],
   [0xb7, 0xfd, 0x93, 0x26, 0x36, 0x3f, 0xf7, 0xcc, 0x34, 0xa5, 0xe5, 0xf1, 0x71, 0xd8, 0x31, 0x15],
   [0x04, 0xc7, 0x23, 0xc3, 0x18, 0x96, 0x05, 0x9a, 0x07, 0x12, 0x80, 0xe2, 0xeb, 0x27, 0xb2, 0x75],
   [0x09, 0x83, 0x2c, 0x1a, 0x1b, 0x6e, 0x5a, 0xa0, 0x52, 0x3b, 0xd6, 0xb3, 0x29, 0xe3, 0x2f, 0x84],
   [0x53, 0xd1, 0x00, 0xed, 0x20, 0xfc, 0xb1, 0x5b, 0x6a, 0xcb, 0xbe, 0x39, 0x4a, 0x4c, 0x58, 0xcf],
   [0xd0, 0xef, 0xaa, 0xfb, 0x43, 0x4d, 0x33, 0x85, 0x45, 0xf9, 0x02, 0x7f, 0x50, 0x3c, 0x9f, 0xa8],
   [0x51, 0xa3, 0x40, 0x8f, 0x92, 0x9d, 0x38, 0xf5, 0xbc, 0xb6, 0xda, 0x21, 0x10, 0xff, 0xf3, 0xd2]] ++
  [[0xcd, 0x0c, 0x13, 0xec, 0x5f, 0x97, 0x44, 0x17, 0xc4, 0xa7, 0x7e, 0x3d, 0x64, 0x5d, 0x19, 0x73],
   [0x60, 0x81, 0x4f, 0xdc, 0x22, 0x2a, 0x90, 0x88, 0x46, 0xee, 0xb8, 0x14, 0xde, 0x5e, 0x0b, 0xdb],
   [0xe0, 0x32, 0x3a, 0x0a, 0x49, 0x06, 0x24, 0x5c, 0xc2, 0xd3, 0xac, 0x62, 0x91, 0x95, 0xe4, 0x79],
   [0xe7, 0xc8, 0x37, 0x6d, 0x8d, 0xd5, 0x4e, 0xa9, 0x6c, 0x56, 0xf4, 0xea, 0x65, 0x7a, 0xae, 0x08],
   [0xba, 0x78, 0x25, 0x2e, 0x1c, 0xa6, 0xb4, 0xc6, 0xe8, 0xdd, 0x74, 0x1f, 0x4b, 0xbd, 0x8b, 0x8a],
   [0x70, 0x3e, 0xb5, 0x66, 0x48, 0x03, 0xf6, 0x0e, 0x61, 0x35, 0x57, 0xb9, 0x86, 0xc1, 0x1d, 0x9e],
   [0xe1, 0xf8, 0x98, 0x11, 0x69, 0xd9, 0x8e, 0x94, 0x9b, 0x1e, 0x87, 0xe9, 0xce, 0x55, 0x28, 0xdf],
   [0x8c, 0xa1, 0x89, 0x0d, 0xbf, 0xe6, 0x42, 0x68, 0x41, 0x99, 0x2d, 0x0f, 0xb0, 0x54, 0xbb, 0x16]]

/-- The table `INVSBOX`, the same layout (40_primitives R125). -/
def invSboxRows : List (List Nat) :=
  [[0x52, 0x09, 0x6a, 0xd5, 0x30, 0x36, 0xa5, 0x38, 0xbf, 0x40, 0xa3, 0x9e, 0x81, 0xf3, 0xd7, 0xfb],
   [0x7c, 0xe3, 0x39, 0x82, 0x9b, 0x2f, 0xff, 0x87, 0x34, 0x8e, 0x43, 0x44, 0xc4, 0xde, 0xe9, 0xcb],
   [0x54, 0x7b, 0x94, 0x32, 0xa6, 0xc2, 0x23, 0x3d, 0xee, 0x4c, 0x95, 0x0b, 0x42, 0xfa, 0xc3, 0x4e],
   [0x08, 0x2e, 0xa1, 0x66, 0x28, 0xd9, 0x24, 0xb2, 0x76, 0x5b, 0xa2, 0x49, 0x6d, 0x8b, 0xd1, 0x25],
   [0x72, 0xf8, 0xf6, 0x64, 0x86, 0x68, 0x98, 0x16, 0xd4, 0xa4, 0x5c, 0xcc, 0x5d, 0x65, 0xb6, 0x92],
   [0x6c, 0x70, 0x48, 0x50, 0xfd, 0xed, 0xb9, 0xda, 0x5e, 0x15, 0x46, 0x57, 0xa7, 0x8d, 0x9d, 0x84],
   [0x90, 0xd8, 0xab, 0x00, 0x8c, 0xbc, 0xd3, 0x0a, 0xf7, 0xe4, 0x58, 0x05, 0xb8, 0xb3, 0x45, 0x06],
   [0xd0, 0x2c, 0x1e, 0x8f, 0xca, 0x3f, 0x0f, 0x02, 0xc1, 0xaf, 0xbd, 0x03, 0x01, 0x13, 0x8a, 0x6b]] ++
  [[0x3a, 0x91, 0x11, 0x41, 0x4f, 0x67, 0xdc, 0xea, 0x97, 0xf2, 0xcf, 0xce, 0xf0, 0xb4, 0xe6, 0x73],
   [0x96, 0xac, 0x74, 0x22, 0xe7, 0xad, 0x35, 0x85, 0xe2, 0xf9, 0x37, 0xe8, 0x1c, 0x75, 0xdf, 0x6e],
   [0x47, 0xf1, 0x1a, 0x71, 0x1d, 0x29, 0xc5, 0x89, 0x6f, 0xb7, 0x62, 0x0e, 0xaa, 0x18, 0xbe, 0x1b],
   [0xfc, 0x56, 0x3e, 0x4b, 0xc6, 0xd2, 0x79, 0x20, 0x9a, 0xdb, 0xc0, 0xfe, 0x78, 0xcd, 0x5a, 0xf4],
   [0x1f, 0xdd, 0xa8, 0x33, 0x88, 0x07, 0xc7, 0x31, 0xb1, 0x12, 0x10, 0x59, 0x27, 0x80, 0xec, 0x5f],
   [0x60, 0x51, 0x7f, 0xa9, 0x19, 0xb5, 0x4a, 0x0d, 0x2d, 0xe5, 0x7a, 0x9f, 0x93, 0xc9, 0x9c, 0xef],
   [0xa0, 0xe0, 0x3b, 0x4d, 0xae, 0x2a, 0xf5, 0xb0, 0xc8, 0xeb, 0xbb, 0x3c, 0x83, 0x53, 0x99, 0x61],
   [0x17, 0x2b, 0x04, 0x7e, 0xba, 0x77, 0xd6, 0x26, 0xe1, 0x69, 0x14, 0x63, 0x55, 0x21, 0x0c, 0x7d]]

/-- The entry of a 16 by 16 table for a byte. -/
def tableAt (rows : List (List Nat)) (a : Byte) : Byte :=
  BitVec.ofNat 8 ((rows.getD (a.toNat / 16) []).getD (a.toNat % 16) 0)

/-- `SBOX[a]` (40_primitives R124). -/
def sbox (a : Byte) : Byte := tableAt sboxRows a

/-- `INVSBOX[a]` (40_primitives R125). -/
def invSbox (a : Byte) : Byte := tableAt invSboxRows a

/-- `SubBytes` (40_primitives R126). -/
def subBytes (V : Block) : Block := ofBytes (fun i => sbox (byteOf V i))

/-- `InvSubBytes` (40_primitives R126). -/
def invSubBytes (V : Block) : Block := ofBytes (fun i => invSbox (byteOf V i))

/-- `SubWord` (40_primitives R126). -/
def subWord (w : Word) : Word :=
  dwordOfBytes (sbox (dwordByte w 0)) (sbox (dwordByte w 1)) (sbox (dwordByte w 2)) (sbox (dwordByte w 3))

/-- The source byte of `ShiftRows` for byte `i = r + 4c`: `r + 4*((c + r) mod 4)` (40_primitives R127). -/
def shiftRowsIndex (i : Nat) : Nat := i % 4 + 4 * ((i / 4 + i % 4) % 4)

/-- The source byte of `InvShiftRows`: `r + 4*((c - r) mod 4)` (40_primitives R127). -/
def invShiftRowsIndex (i : Nat) : Nat := i % 4 + 4 * ((i / 4 + 4 - i % 4) % 4)

/-- `ShiftRows` (40_primitives R127). -/
def shiftRows (V : Block) : Block := ofBytes (fun i => byteOf V (shiftRowsIndex i))

/-- `InvShiftRows` (40_primitives R127). -/
def invShiftRows (V : Block) : Block := ofBytes (fun i => byteOf V (invShiftRowsIndex i))

/-- Byte `i = 4c + n` of a column transform whose matrix has the first row `m0 m1 m2 m3`, each further row rotated right by
one: with `a0..a3` the column, `m0*a[n] + m1*a[n+1] + m2*a[n+2] + m3*a[n+3]`, indices mod 4 (40_primitives R128, R129). -/
def mixByte (m0 m1 m2 m3 : Byte) (V : Block) (i : Nat) : Byte :=
  let c := 4 * (i / 4)
  gmul (byteOf V (c + i % 4)) m0 ^^^ gmul (byteOf V (c + (i + 1) % 4)) m1 ^^^
    gmul (byteOf V (c + (i + 2) % 4)) m2 ^^^ gmul (byteOf V (c + (i + 3) % 4)) m3

/-- `MixColumns` (40_primitives R128). -/
def mixColumns (V : Block) : Block := ofBytes (mixByte 0x02 0x03 0x01 0x01 V)

/-- `InvMixColumns` (40_primitives R129). -/
def invMixColumns (V : Block) : Block := ofBytes (mixByte 0x0E 0x0B 0x0D 0x09 V)

/-- `RotWord` (40_primitives R130): bytes `(w0, w1, w2, w3)` become `(w1, w2, w3, w0)`. -/
def rotWord (w : Word) : Word := (w >>> 8) ||| (w <<< 24)

/-- The round constants `RCON[1..10]` (00_scope R8, 41_keyschedule R171). -/
def rconList : List Nat := [0x01, 0x02, 0x04, 0x08, 0x10, 0x20, 0x40, 0x80, 0x1B, 0x36]

/-- `RCON[i]`, `i = 1..10` (00_scope R8). -/
def rcon (i : Nat) : Byte := BitVec.ofNat 8 (rconList.getD (i - 1) 0)

/-- `PXOR` as a function (40_primitives R140). -/
def pxorOf (a b : Block) : Block := a ^^^ b

/-- `PSLLDQ4` as a function: up by 4 bytes, the top dword dropped (40_primitives R141). -/
def pslldq4Of (a : Block) : Block := a <<< 32

/-- `PSHUFD_FF` as a function: dword 3 in all four dwords (40_primitives R142). -/
def pshufdFfOf (a : Block) : Block := ofDwords (fun _ => dwordOf a 3)

/-- `AESKEYGENASSIST` as a function (40_primitives R143). -/
def assistOf (a : Block) (imm8 : Byte) : Block :=
  let x1 := subWord (dwordOf a 1)
  let x3 := subWord (dwordOf a 3)
  let rc := imm8.setWidth 32
  ofDwords (fun j => match j with
    | 0 => x1
    | 1 => rotWord x1 ^^^ rc
    | 2 => x3
    | _ => rotWord x3 ^^^ rc)

/-- `AESIMC` as a function (40_primitives R144). -/
def aesimcOf (a : Block) : Block := invMixColumns a

/-- `AESENC` as a function (40_primitives R145). -/
def aesencOf (a k : Block) : Block := mixColumns (subBytes (shiftRows a)) ^^^ k

/-- `AESENCLAST` as a function (40_primitives R146). -/
def aesenclastOf (a k : Block) : Block := subBytes (shiftRows a) ^^^ k

/-- `AESDEC` as a function (40_primitives R147). -/
def aesdecOf (a k : Block) : Block := invMixColumns (invSubBytes (invShiftRows a)) ^^^ k

/-- `AESDECLAST` as a function (40_primitives R148). -/
def aesdeclastOf (a k : Block) : Block := invSubBytes (invShiftRows a) ^^^ k

end Sys2Proof
end

