-- ==== Sys2Proof/Config.lean ====
section
/-! DEFINITION. What the spec leaves to the implementation: the model parameters of 00_scope R9 as the plain record
`Platform`, and the free values. Each free value is an opaque constant with no body, applied to a plain counter, so that
nothing can be proved about which value it is. -/

namespace Sys2Proof

/-- What `ENCRYPT` and `DECRYPT` do with a length that is no multiple of 16 (00_scope R9 `LEN_POLICY`, 44_facade R247). -/
inductive LenPolicy where
  | fail
  | truncate
deriving DecidableEq, Repr

/-- A range of byte addresses `base .. base + size - 1` of the platform. -/
structure Region where
  base : Nat
  size : Nat
deriving DecidableEq, Repr

/-- The parameters of the model (00_scope R9), "the model takes it as an argument". The types of `exec` and `step` are
fixed, so the argument rides in the state; no step changes it (log 1). `regions` lists the addresses of `MEM_VALID`: a
predicate on the finitely many AW-bit addresses is a finite union of ranges (log 24). -/
structure Platform where
  aw        : Nat
  regions   : List Region
  hwcap     : Bool
  lenPolicy : LenPolicy
deriving DecidableEq, Repr

/-- The platform `State.reset` carries (log 2, DESIGN CHOICE, unsafe for claims about `State.reset` alone): AW 64 is the
suggested default and FAIL the value of 00_scope R9; `HWCAP = true` and `MEM_VALID` everywhere are the model's choice. -/
def Config.platform : Platform :=
  { aw := 64, regions := [{ base := 0, size := 2 ^ 64 }], hwcap := true, lenPolicy := .fail }

/-- Free 128-bit values (93_implementation_defined U1, U2; 10_state R23), numbered by `State.freeCount`. -/
opaque Config.freeBlock : Nat → Block

/-- Free schedules (93_implementation_defined U1, U2). -/
opaque Config.freeSchedule : Nat → Schedule

/-- Free natural numbers, for the dispatcher's registers outside a call (10_state R44; U1). -/
opaque Config.freeNat : Nat → Nat

/-- Free Booleans, for the direction outside a call (10_state R44; U1). -/
opaque Config.freeBool : Nat → Bool

/-- Free contents of worker state registers after a reset event (10_state R24; U1). -/
opaque Config.freeCells : Nat → List (Nat × Block)

end Sys2Proof
end

