-- ==== Sys2Proof/Syntax.lean ====
section
/-! DEFINITION. The instructions of the SM-AES core: one constructor per row of spec/opcode_table.json (commands of level C,
host register accesses of format H, primitive operations of level P), their operands, and the encoded forms. -/

namespace Sys2Proof

/-- The 11 control registers (10_state R28), in the order of their numbers 0 to 10. -/
inductive CR where
  | cmd
  | status
  | errcode
  | errinfo
  | src
  | dst
  | len
  | workers
  | keyin
  | din
  | dout
deriving DecidableEq, Repr

/-- The modes of operation: "extensible enumeration currently holding only ECB" (30_encoding R93). -/
inductive Mode where
  | ecb
deriving DecidableEq, Repr

/-- The 128-bit registers a micro-sequence names (10_state R21 to R26). `u` is the temporary U of 41_keyschedule R173;
`s j` is the state register of worker `j`. -/
inductive Reg where
  | k
  | t
  | u
  | key
  | keyin
  | din
  | dout
  | eks (i : Fin 11)
  | dks (i : Fin 11)
  | s (j : Nat)
deriving DecidableEq, Repr

/-- Round key `i` of the encryption schedule as an operand; `i` is 0 to 10 wherever a micro-sequence names it. -/
def Reg.ek (i : Nat) : Reg := .eks (Fin.ofNat 11 i)

/-- Round key `i` of the decryption schedule as an operand. -/
def Reg.dk (i : Nat) : Reg := .dks (Fin.ofNat 11 i)

/-- The instructions. A primitive carries the operands its micro-sequence step routes to it (30_encoding R95: "no bits encode
them"), in the written order of 30_encoding R100. `ldblk` and `stblk` name the issuing worker `j`, whose `S[j]` is their
128-bit operand (40_primitives R149, R150), and a byte address as a natural number (30_encoding R96). -/
inductive Instr where
  | construct
  | encrypt (mode : Mode)
  | decrypt (mode : Mode)
  | encb
  | decb
  | destroy
  | crread (n : CR)
  | crwrite (n : CR) (v : Nat)
  | pxor (d a b : Reg)
  | pslldq4 (d a : Reg)
  | pshufdFf (d a : Reg)
  | aeskeygenassist (d a : Reg) (imm8 : Byte)
  | aesimc (d a : Reg)
  | aesenc (d a rk : Reg)
  | aesenclast (d a rk : Reg)
  | aesdec (d a rk : Reg)
  | aesdeclast (d a rk : Reg)
  | ldblk (j addr : Nat)
  | stblk (addr j : Nat)
deriving DecidableEq, Repr

/-- The operand routing that travels beside a primitive's selector (30_encoding R95): destination, first source, second source
(the `b` of `PXOR`, the round key of a round), issuing worker, byte address. A primitive ignores what it does not take. -/
structure Route where
  d    : Reg
  a    : Reg
  b    : Reg
  j    : Nat
  addr : Nat
deriving DecidableEq, Repr

/-- The routing with every operand at its first value: what a bare selector word stands for in a table of words (log 10). -/
def Route.zero : Route := { d := .s 0, a := .s 0, b := .eks 0, j := 0, addr := 0 }

/-- The three formats of 30_encoding R90, each on its own path: a command word; a host access (header and payload, the payload
of a read being 0); a primitive word with its routing. -/
inductive Encoded where
  | c (w : BitVec 32)
  | h (header : BitVec 5) (payload : Nat)
  | p (w : BitVec 12) (r : Route)
deriving DecidableEq, Repr

end Sys2Proof
end

