-- ==== Sys2Proof/WellFormed.lean ====
section
/-! DEFINITION. Which instructions the encodings can express: payload widths (30_encoding R94) and the registers the
micro-sequences route to a primitive (30_encoding R95). -/

namespace Sys2Proof

/-- The width of a control register (10_state R28), `aw` being the parameter AW. -/
def CR.width (aw : Nat) : CR → Nat
  | .cmd => 32
  | .status => 32
  | .errcode => 32
  | .errinfo => 32
  | .src => aw
  | .dst => aw
  | .len => aw
  | .workers => 32
  | .keyin => 128
  | .din => 128
  | .dout => 128

/-- Registers a micro-sequence routes to a primitive as its destination: `K`, `T`, `U` (41_keyschedule R173), `DKS[i]` (R174),
`S[j]` (42_blockcipher R192, R195). `KEY` and `EKS` are written by no primitive (10_state R25; 41_keyschedule R172 moves `K`). -/
def Reg.isDest : Reg → Bool
  | .k => true
  | .t => true
  | .u => true
  | .key => false
  | .keyin => false
  | .din => false
  | .dout => false
  | .eks _ => false
  | .dks _ => true
  | .s _ => true

/-- Registers a micro-sequence routes to a primitive as a source: the same and `EKS[i]`. -/
def Reg.isSource : Reg → Bool
  | .k => true
  | .t => true
  | .u => true
  | .key => false
  | .keyin => false
  | .din => false
  | .dout => false
  | .eks _ => true
  | .dks _ => true
  | .s _ => true

/-- Well-formed instructions: a `CRWRITE` payload fits its register; a primitive's operands are ones a micro-sequence routes. -/
def Instr.wf (aw : Nat) : Instr → Bool
  | .construct => true
  | .encrypt _ => true
  | .decrypt _ => true
  | .encb => true
  | .decb => true
  | .destroy => true
  | .crread _ => true
  | .crwrite n v => decide (v < 2 ^ n.width aw)
  | .pxor d a b => d.isDest && a.isSource && b.isSource
  | .pslldq4 d a => d.isDest && a.isSource
  | .pshufdFf d a => d.isDest && a.isSource
  | .aeskeygenassist d a _ => d.isDest && a.isSource
  | .aesimc d a => d.isDest && a.isSource
  | .aesenc d a rk => d.isDest && a.isSource && rk.isSource
  | .aesenclast d a rk => d.isDest && a.isSource && rk.isSource
  | .aesdec d a rk => d.isDest && a.isSource && rk.isSource
  | .aesdeclast d a rk => d.isDest && a.isSource && rk.isSource
  | .ldblk _ _ => true
  | .stblk _ _ => true

end Sys2Proof
end

