-- ==== Sys2Proof/Decode.lean ====
section
/-! DEFINITION. Decoding and encoding of the three formats of 30_encoding R90 to R95. Decoding is total and rejects by name;
it answers well-formed instructions only. The encoder stands after it, written from the same tables. -/

namespace Sys2Proof

/-- Why a word is no instruction. -/
inductive DecodeError where
  /-- A format C word that 30_encoding R97 calls illegal. Written to `CMD` it is not a stop: the command ends with
  `IllegalCommand`. -/
  | illegalCommand (w : BitVec 32)
  /-- A format H header with a register number 11 to 15 (30_encoding R98). -/
  | reservedRegister (n : Nat)
  /-- A format H payload that does not fit the register's width, or a read that carries one (30_encoding R94). -/
  | badPayload
  /-- A format P selector `0xB` to `0xF`, or a non-zero `imm8` where there is none (30_encoding R99). -/
  | reservedSelector (w : BitVec 12)
  /-- A format P word with an operand no micro-sequence routes (30_encoding R95). -/
  | badRoute (w : BitVec 12)
deriving DecidableEq, Repr

/-- The register with number `n` (10_state R28); 11 to 15 are reserved (30_encoding R98). -/
def CR.ofNum : Nat → Option CR
  | 0 => some .cmd
  | 1 => some .status
  | 2 => some .errcode
  | 3 => some .errinfo
  | 4 => some .src
  | 5 => some .dst
  | 6 => some .len
  | 7 => some .workers
  | 8 => some .keyin
  | 9 => some .din
  | 10 => some .dout
  | _ => none

/-- The mode with code `m` (30_encoding R93). -/
def Mode.ofCode (m : Byte) : Option Mode :=
  if m = 0x00#8 then some .ecb else none

/-- Format C (30_encoding R91, R92, R93, R97): `op` in bits 7:0, `mode` in 15:8, `rsv` in 31:16. -/
def decodeCommand (w : BitVec 32) : Except DecodeError Instr :=
  let op := w.extractLsb' 0 8
  let mode := w.extractLsb' 8 8
  let rsv := w.extractLsb' 16 16
  if rsv ≠ 0 then .error (.illegalCommand w)
  else if op = 0x02#8 then
    match Mode.ofCode mode with
    | some m => .ok (.encrypt m)
    | none => .error (.illegalCommand w)
  else if op = 0x03#8 then
    match Mode.ofCode mode with
    | some m => .ok (.decrypt m)
    | none => .error (.illegalCommand w)
  else if mode ≠ 0 then .error (.illegalCommand w)
  else if op = 0x01#8 then .ok .construct
  else if op = 0x04#8 then .ok .encb
  else if op = 0x05#8 then .ok .decb
  else if op = 0x06#8 then .ok .destroy
  else .error (.illegalCommand w)

/-- Format H (30_encoding R94, R98): `w` in bit 4 of the header, `n` in bits 3:0, then the payload. -/
def decodeAccess (aw : Nat) (header : BitVec 5) (payload : Nat) : Except DecodeError Instr :=
  let n := header.extractLsb' 0 4
  match CR.ofNum n.toNat with
  | none => .error (.reservedRegister n.toNat)
  | some r =>
    if header.extractLsb' 4 1 = 1 then
      if payload < 2 ^ r.width aw then .ok (.crwrite r payload) else .error .badPayload
    else
      if payload = 0 then .ok (.crread r) else .error .badPayload

/-- The function a format P word selects, with the operands its routing names (30_encoding R95): `uop` in bits 3:0, `imm8` in
bits 11:4, which is 0 but for `AESKEYGENASSIST` (30_encoding R99). -/
def selectPrim (w : BitVec 12) (r : Route) : Option Instr :=
  let uop := w.extractLsb' 0 4
  let imm8 := w.extractLsb' 4 8
  if uop = 0x3#4 then some (.aeskeygenassist r.d r.a imm8)
  else if imm8 ≠ 0 then none
  else if uop = 0x0#4 then some (.pxor r.d r.a r.b)
  else if uop = 0x1#4 then some (.pslldq4 r.d r.a)
  else if uop = 0x2#4 then some (.pshufdFf r.d r.a)
  else if uop = 0x4#4 then some (.aesimc r.d r.a)
  else if uop = 0x5#4 then some (.aesenc r.d r.a r.b)
  else if uop = 0x6#4 then some (.aesenclast r.d r.a r.b)
  else if uop = 0x7#4 then some (.aesdec r.d r.a r.b)
  else if uop = 0x8#4 then some (.aesdeclast r.d r.a r.b)
  else if uop = 0x9#4 then some (.ldblk r.j r.addr)
  else if uop = 0xA#4 then some (.stblk r.addr r.j)
  else none

/-- Format P (30_encoding R95, R99). -/
def decodePrim (w : BitVec 12) (r : Route) : Except DecodeError Instr :=
  match selectPrim w r with
  | none => .error (.reservedSelector w)
  | some i => if i.wf 0 then .ok i else .error (.badRoute w)

/-- The decoder of all three formats. -/
def decode (aw : Nat) : Encoded → Except DecodeError Instr
  | .c w => decodeCommand w
  | .h header payload => decodeAccess aw header payload
  | .p w r => decodePrim w r

/-- The number of a control register (10_state R28). -/
def CR.num : CR → BitVec 4
  | .cmd => 0
  | .status => 1
  | .errcode => 2
  | .errinfo => 3
  | .src => 4
  | .dst => 5
  | .len => 6
  | .workers => 7
  | .keyin => 8
  | .din => 9
  | .dout => 10

/-- The code of a mode (30_encoding R93). -/
def Mode.code : Mode → Byte
  | .ecb => 0x00

/-- A command word from its fields (30_encoding R91). -/
def commandWord (op mode : Byte) : BitVec 32 := (0 : BitVec 16) ++ mode ++ op

/-- A primitive word from its fields (30_encoding R95). -/
def primWord (uop : BitVec 4) (imm8 : Byte) : BitVec 12 := imm8 ++ uop

/-- The encoder (30_encoding R91 to R95). Routing fields a primitive does not take are at their first value. -/
def encode : Instr → Encoded
  | .construct => .c (commandWord 0x01 0)
  | .encrypt m => .c (commandWord 0x02 m.code)
  | .decrypt m => .c (commandWord 0x03 m.code)
  | .encb => .c (commandWord 0x04 0)
  | .decb => .c (commandWord 0x05 0)
  | .destroy => .c (commandWord 0x06 0)
  | .crread n => .h ((0 : BitVec 1) ++ n.num) 0
  | .crwrite n v => .h ((1 : BitVec 1) ++ n.num) v
  | .pxor d a b => .p (primWord 0x0 0) { Route.zero with d := d, a := a, b := b }
  | .pslldq4 d a => .p (primWord 0x1 0) { Route.zero with d := d, a := a }
  | .pshufdFf d a => .p (primWord 0x2 0) { Route.zero with d := d, a := a }
  | .aeskeygenassist d a imm8 => .p (primWord 0x3 imm8) { Route.zero with d := d, a := a }
  | .aesimc d a => .p (primWord 0x4 0) { Route.zero with d := d, a := a }
  | .aesenc d a rk => .p (primWord 0x5 0) { Route.zero with d := d, a := a, b := rk }
  | .aesenclast d a rk => .p (primWord 0x6 0) { Route.zero with d := d, a := a, b := rk }
  | .aesdec d a rk => .p (primWord 0x7 0) { Route.zero with d := d, a := a, b := rk }
  | .aesdeclast d a rk => .p (primWord 0x8 0) { Route.zero with d := d, a := a, b := rk }
  | .ldblk j addr => .p (primWord 0x9 0) { Route.zero with j := j, addr := addr }
  | .stblk addr j => .p (primWord 0xA 0) { Route.zero with j := j, addr := addr }

/-- What the decoder reads from an opcode-table word (log 27). The table gives a row of format C 32 bits, of format H 5 (one
byte) and of format P 12 (two bytes), so the width tells the path. A payload is the operand word of zeros, a primitive's
operands are `Route.zero`. -/
def decodeTableWord (nbits w : Nat) : Option Instr :=
  if nbits = 32 then
    if w < 2 ^ 32 then (decodeCommand (BitVec.ofNat 32 w)).toOption else none
  else if nbits = 8 then
    if w < 2 ^ 5 then (decodeAccess Config.platform.aw (BitVec.ofNat 5 w) 0).toOption else none
  else if nbits = 16 then
    if w < 2 ^ 12 then (decodePrim (BitVec.ofNat 12 w) Route.zero).toOption else none
  else none

/-- The three formats by name (30_encoding R90). -/
inductive Format where
  | c
  | h
  | p
deriving DecidableEq, Repr

/-- A row of the opcode table: the words of its format with `word AND mask = value` are the instruction's. -/
structure Row where
  mnemonic : String
  format   : Format
  value    : Nat
  mask     : Nat
deriving DecidableEq, Repr

/-- The `match` and `mask` columns of spec/opcode_table.json, copied row by row: the decoder does not read them, so that they
can be held against it (Laws/PerInstr.lean). -/
def opcodeTable : List Row :=
  [⟨"CONSTRUCT", .c, 0x00000001, 0xFFFFFFFF⟩,
   ⟨"ENCRYPT", .c, 0x00000002, 0xFFFF00FF⟩,
   ⟨"DECRYPT", .c, 0x00000003, 0xFFFF00FF⟩,
   ⟨"ENCB", .c, 0x00000004, 0xFFFFFFFF⟩,
   ⟨"DECB", .c, 0x00000005, 0xFFFFFFFF⟩,
   ⟨"DESTROY", .c, 0x00000006, 0xFFFFFFFF⟩,
   ⟨"CRREAD", .h, 0x00, 0x10⟩,
   ⟨"CRWRITE", .h, 0x10, 0x10⟩] ++
  [⟨"PXOR", .p, 0x000, 0xFFF⟩,
   ⟨"PSLLDQ4", .p, 0x001, 0xFFF⟩,
   ⟨"PSHUFD_FF", .p, 0x002, 0xFFF⟩,
   ⟨"AESKEYGENASSIST", .p, 0x003, 0x00F⟩,
   ⟨"AESIMC", .p, 0x004, 0xFFF⟩,
   ⟨"AESENC", .p, 0x005, 0xFFF⟩,
   ⟨"AESENCLAST", .p, 0x006, 0xFFF⟩,
   ⟨"AESDEC", .p, 0x007, 0xFFF⟩,
   ⟨"AESDECLAST", .p, 0x008, 0xFFF⟩,
   ⟨"LDBLK", .p, 0x009, 0xFFF⟩,
   ⟨"STBLK", .p, 0x00A, 0xFFF⟩]

/-- Whether an encoded form is one of a row's words. -/
def Row.fits (r : Row) : Encoded → Bool
  | .c w => r.format == .c && (w.toNat &&& r.mask == r.value)
  | .h header _ => r.format == .h && (header.toNat &&& r.mask == r.value)
  | .p w _ => r.format == .p && (w.toNat &&& r.mask == r.value)

/-- The mnemonic of an instruction's row. -/
def Instr.mnemonic : Instr → String
  | .construct => "CONSTRUCT"
  | .encrypt _ => "ENCRYPT"
  | .decrypt _ => "DECRYPT"
  | .encb => "ENCB"
  | .decb => "DECB"
  | .destroy => "DESTROY"
  | .crread _ => "CRREAD"
  | .crwrite _ _ => "CRWRITE"
  | .pxor _ _ _ => "PXOR"
  | .pslldq4 _ _ => "PSLLDQ4"
  | .pshufdFf _ _ => "PSHUFD_FF"
  | .aeskeygenassist _ _ _ => "AESKEYGENASSIST"
  | .aesimc _ _ => "AESIMC"
  | .aesenc _ _ _ => "AESENC"
  | .aesenclast _ _ _ => "AESENCLAST"
  | .aesdec _ _ _ => "AESDEC"
  | .aesdeclast _ _ _ => "AESDECLAST"
  | .ldblk _ _ => "LDBLK"
  | .stblk _ _ => "STBLK"

end Sys2Proof
end

