-- ==== Sys2Proof/Machine/State.lean ====
section
/-! DEFINITION. The state of the SM-AES core as plain data (10_state), the reasons a step can stop, and the state after reset.
INVENTORY.md lists every field with the rule that names it. Fields the spec does not name are marked "own". -/

namespace Sys2Proof.Machine

/-- The phases of the sequencer (10_state R40). -/
inductive Phase where
  | idle
  | probe
  | ksFwd
  | ksInv
  | blk
  | dispatch
  | run
  | join
deriving DecidableEq, Repr

/-- The direction of a call (10_state R44). -/
inductive Dir where
  | enc
  | dec
deriving DecidableEq, Repr

/-- The status of a worker (10_state R45). -/
inductive WStat where
  | idle
  | run
  | done
  | fault
deriving DecidableEq, Repr

/-- Own (log 8): which step of 43_parallel R217 a worker does next in its current block. -/
inductive Stage where
  | load
  | rounds
  | store
deriving DecidableEq, Repr

/-- A worker (10_state R45, R41). Its `S[j]` is in `State.sreg`. -/
structure Worker where
  lo    : Nat
  hi    : Nat
  cur   : Nat
  wrnd  : Nat
  wstat : WStat
  stage : Stage
deriving DecidableEq, Repr

/-- Own (log 8): one operation of a micro-sequence row. `prim` is a format P word with the operands the row routes to it; the
others are the register moves and control actions the micro-sequences of R172, R174, R192, R195, R214, R217, R241 write. -/
inductive MicroOp where
  /-- Issue a primitive word to the datapath (30_encoding R95). -/
  | prim (w : BitVec 12) (r : Route)
  /-- `d <- a`, a register move. -/
  | move (d a : Reg)
  /-- `seq <- (phase, rnd)` (00_scope R12). -/
  | goto (phase : Phase) (rnd : Nat)
  /-- The `PROBE` micro-step of `CONSTRUCT` (44_facade R241). -/
  | probe
  /-- `STATUS.KEYED <- 1 ; return`, the end of `CONSTRUCT` (44_facade R241). -/
  | keyed
  /-- `return` (60_exceptions R277). -/
  | ret
  /-- The work assignment (43_parallel R214, `DISPATCH`). -/
  | dispatch
  /-- The join (43_parallel R219). -/
  | join
  /-- Worker `j` has done step 1 of 43_parallel R217, unless it faulted. -/
  | loaded (j : Nat)
  /-- Worker `j` has done one round (42_blockcipher R192, R195). -/
  | rounded (j : Nat)
  /-- Step 4 of 43_parallel R217 for worker `j`, unless it faulted. -/
  | stored (j : Nat)
deriving DecidableEq, Repr

/-- Own (log 6): one choice of the scheduler argument (93_implementation_defined U13): the worker that moves next, or a reset
that arrives while the command runs (70_reset R301, U7; log 19). -/
inductive Choice where
  | worker (c : Nat)
  | reset
deriving DecidableEq, Repr

/-- What the host does, in the order it does it (70_reset R317). -/
inductive HostEvent where
  /-- A register access (30_encoding R94); a write of `CMD` issues a command. -/
  | access (header : BitVec 5) (payload : Nat)
  /-- Bytes written to buffer memory between commands (70_reset R317, 20_memory R72; log 20). -/
  | store (addr : Nat) (bytes : List Byte)
  /-- `n` bytes of buffer memory read between commands (70_reset R317, 20_memory R73; log 29). -/
  | load (addr n : Nat)
  /-- The reset event between commands (70_reset R300). -/
  | reset
deriving DecidableEq, Repr

/-- Own (log 15): what the host's last read answered. -/
inductive Response where
  /-- A `CRREAD` (30_encoding R94): the register and its value. -/
  | register (reg : CR) (value : Nat)
  /-- A read of buffer memory (70_reset R317): the address and the bytes from there up. -/
  | memory (addr : Nat) (bytes : List Byte)
deriving DecidableEq, Repr

/-- Why the machine stops with a fault. -/
inductive Fault where
  /-- Raised by `step` on a host store that touches a byte the platform does not have (00_scope R9 `MEM_VALID`, 20_memory
  R66): no such byte exists. Safe: nothing follows from it (log 20). -/
  | hostStoreAbsent (addr : Nat)
  /-- Raised by `step` on a host read that touches a byte the platform does not have, for the same reason. Safe: nothing follows
  from it (log 29). -/
  | hostLoadAbsent (addr : Nat)
deriving DecidableEq, Repr

/-- Why the model gives a step no meaning. All are safe: nothing can be proved past one. -/
inductive Refusal where
  /-- Raised by an arm of `exec` whose instruction has no meaning yet (none in this model). Safe. -/
  | notModelled (mnemonic : String)
  /-- Raised by a command or a register access while a command runs: 93_implementation_defined U5, "refuse" (log 18). Safe. -/
  | hostWhileBusy
  /-- Raised by `ENCRYPT` and `DECRYPT` on partially overlapping buffers: 20_memory R67, U3, "a model refuses it" (log 16).
  Safe. -/
  | partialOverlap
  /-- Raised by `step` on a register number 11 to 15: 30_encoding R98, U4, "a model refuses it" (log 17). Safe. -/
  | reservedRegister (n : Nat)
  /-- Raised by `step` on a payload that does not fit its register: 30_encoding R94, no such transaction (log 28). Safe. -/
  | badPayload
  /-- Raised by `step` on a format P word with no meaning: 30_encoding R99, "cannot arise". Safe. -/
  | reservedSelector (w : BitVec 12)
  /-- Raised by `step` on a format P word with an operand no micro-sequence routes: 30_encoding R95, R99 (log 10). Safe. -/
  | badRoute (w : BitVec 12)
  /-- Raised inside a micro-sequence row by an operation that is no primitive: cannot arise, no row issues one. Safe. -/
  | notAPrimitive
deriving DecidableEq, Repr

/-- The state of the machine. -/
structure State where
  /-- Own place of the parameters of 00_scope R9 (log 1); no step changes them. -/
  platform  : Platform
  /-- `KEYIN` (10_state R21). -/
  keyin     : Block
  /-- `DIN` (10_state R22). -/
  din       : Block
  /-- `DOUT` (10_state R22). -/
  dout      : Block
  /-- `KEY` (10_state R25). -/
  key       : Block
  /-- `EKS[0..10]` (10_state R26). -/
  eks       : Schedule
  /-- `DKS[0..10]` (10_state R26). -/
  dks       : Schedule
  /-- `K` (10_state R23). -/
  k         : Block
  /-- `T` (10_state R23). -/
  t         : Block
  /-- Own: `U`, a temporary inside one expansion step (41_keyschedule R173; log 8). -/
  u         : Block
  /-- `S[j]` for every worker index `j` (10_state R24), a canonical sparse list. -/
  sreg      : List (Nat × Block)
  /-- `STATUS` (10_state R30). -/
  status    : Word
  /-- `ERRCODE` (10_state R31). -/
  errcode   : Word
  /-- `ERRINFO` (10_state R31). -/
  errinfo   : Word
  /-- `SRC`, below 2^AW (10_state R32). -/
  src       : Nat
  /-- `DST`, below 2^AW (10_state R32). -/
  dst       : Nat
  /-- `LEN`, below 2^AW (10_state R32). -/
  len       : Nat
  /-- `WORKERS`, the worker hint (10_state R32). -/
  hint      : Word
  /-- `seq.phase` (10_state R40). -/
  phase     : Phase
  /-- `seq.rnd` (10_state R40). -/
  rnd       : Nat
  /-- Own: which of 42_blockcipher R192 and R195 the phase `BLK` runs (log 14). -/
  blkDir    : Dir
  /-- `dir` (10_state R44). -/
  dir       : Dir
  /-- `nblk` (10_state R44). -/
  nblk      : Nat
  /-- `W` (10_state R44). -/
  wcount    : Nat
  /-- `base` (10_state R44). -/
  base      : Nat
  /-- `extra` (10_state R44). -/
  extra     : Nat
  /-- The workers in existence, by index (10_state R45). -/
  workers   : List Worker
  /-- Own: what is left of the micro-sequence row being done (log 8). -/
  useq      : List MicroOp
  /-- Own: the scheduler argument (93_implementation_defined U13; logs 6, 19). -/
  sched     : List Choice
  /-- Own: the host operations still to come (log 9). -/
  hostq     : List HostEvent
  /-- Own: the response of the host's last read (log 15). -/
  resp      : Option Response
  /-- Buffer memory (10_state R47), canonical: addresses rising, no entry equal to what an unlisted address reads as. -/
  mem       : List Host.Cell
  /-- Own: the number of the next free value (log 11). -/
  freeCount : Nat
deriving DecidableEq, Repr

/-- The state right after reset (10_state R48, 70_reset R300). `STATUS`, `ERRCODE`, `ERRINFO`, `SRC`, `DST`, `LEN`, `WORKERS`
and `seq` are the spec's; every register R48 leaves unspecified is 0 (log 3, DESIGN CHOICE, unsafe); the platform is log 2. -/
def State.reset : State :=
  { platform := Config.platform
    keyin := 0, din := 0, dout := 0, key := 0
    eks := Vector.replicate 11 0, dks := Vector.replicate 11 0
    k := 0, t := 0, u := 0, sreg := []
    status := 0, errcode := 0, errinfo := 0
    src := 0, dst := 0, len := 0, hint := 0
    phase := .idle, rnd := 0, blkDir := .enc
    dir := .enc, nblk := 0, wcount := 0, base := 0, extra := 0
    workers := [], useq := [], sched := [], hostq := [], resp := none, mem := [], freeCount := 0 }

/-- What `exec`, `step` and the meanings answer. -/
abbrev Result := Host.Outcome State Fault Refusal

end Sys2Proof.Machine
end

