-- ==== Sys2Proof/Machine/Flags.lean ====
section
/-! DEFINITION. The fields of `STATUS` (10_state R30), the only flags of the hardware, and the outcome codes (60_exceptions R270). -/

namespace Sys2Proof.Machine

/-- `STATUS.KEYED`, bit 0 (10_state R30). -/
def State.keyed (s : State) : Bool := s.status.getLsbD 0

/-- `STATUS.ERR`, bit 1 (10_state R30). -/
def State.err (s : State) : Bool := s.status.getLsbD 1

/-- A status word with its `KEYED` bit set to `b`, the others unchanged. -/
def withKeyedBit (b : Bool) (w : Word) : Word := if b then w ||| 1#32 else w &&& ~~~1#32

/-- A status word with its `ERR` bit set to `b`, the others unchanged. -/
def withErrBit (b : Bool) (w : Word) : Word := if b then w ||| 2#32 else w &&& ~~~2#32

/-- `STATUS.KEYED <- b` (44_facade R241, R251). -/
def State.setKeyed (b : Bool) (s : State) : State := { s with status := withKeyedBit b s.status }

/-- The errors by name (60_exceptions R270). -/
inductive Err where
  | unsupportedHardware
  | invalidLength
  | workerFailure
  | paddingValidationFailure
  | illegalCommand
  | illegalState
deriving DecidableEq, Repr

/-- `code(E)` (60_exceptions R270). -/
def Err.code : Err → Word
  | .unsupportedHardware => 0x01
  | .invalidLength => 0x02
  | .workerFailure => 0x03
  | .paddingValidationFailure => 0x04
  | .illegalCommand => 0x05
  | .illegalState => 0x06

end Sys2Proof.Machine
end

