-- ==== Sys2Proof/Machine/Sparse.lean ====
section
/-! DEFINITION. Sparse maps from natural numbers in one canonical form: keys strictly rising, no entry equal to the default.
Buffer memory (10_state R47) and the worker registers `S[j]` (10_state R24) are such maps. -/

namespace Sys2Proof.Machine

/-- The value at `a`; an unlisted key has the default `d`. -/
def sparseGet {α : Type} (d : α) : List (Nat × α) → Nat → α
  | [], _ => d
  | (k, v) :: m, a => if a = k then v else sparseGet d m a

/-- `m` with `v` at `a`, keeping the canonical form: writing the default removes the entry. -/
def sparsePut {α : Type} [DecidableEq α] (d : α) : List (Nat × α) → Nat → α → List (Nat × α)
  | [], a, v => if v = d then [] else [(a, v)]
  | (k, w) :: m, a, v =>
    if a < k then (if v = d then (k, w) :: m else (a, v) :: (k, w) :: m)
    else if a = k then (if v = d then m else (a, v) :: m)
    else (k, w) :: sparsePut d m a v

/-- Keys all above `lo`, rising, and no entry equal to the default. -/
def sparseFrom {α : Type} [DecidableEq α] (d : α) : Nat → List (Nat × α) → Bool
  | _, [] => true
  | lo, (k, v) :: m => decide (lo ≤ k) && !decide (v = d) && sparseFrom d (k + 1) m

/-- The canonical form. -/
def sparseWf {α : Type} [DecidableEq α] (d : α) (m : List (Nat × α)) : Bool := sparseFrom d 0 m

end Sys2Proof.Machine
end

