-- ==== Sys2Proof/Machine/Operands.lean ====
section
/-! DEFINITION. Reading and writing operands: the 128-bit registers a micro-sequence names (10_state R20 to R26) and the control
registers by number (10_state R28). -/

namespace Sys2Proof.Machine

/-- What a worker register that nothing has written holds (10_state R24: unspecified; log 3). -/
def unwrittenS : Block := 0

/-- `S[j]` (10_state R24). -/
def State.readS (s : State) (j : Nat) : Block := sparseGet unwrittenS s.sreg j

/-- `S[j] <- v` (10_state R24). -/
def State.writeS (s : State) (j : Nat) (v : Block) : State := { s with sreg := sparsePut unwrittenS s.sreg j v }

/-- The value of a 128-bit register. -/
def State.readReg (s : State) : Reg → Block
  | .k => s.k
  | .t => s.t
  | .u => s.u
  | .key => s.key
  | .keyin => s.keyin
  | .din => s.din
  | .dout => s.dout
  | .eks i => s.eks.get i
  | .dks i => s.dks.get i
  | .s j => s.readS j

/-- `r <- v` for a 128-bit register. -/
def State.writeReg (s : State) (r : Reg) (v : Block) : State :=
  match r with
  | .k => { s with k := v }
  | .t => { s with t := v }
  | .u => { s with u := v }
  | .key => { s with key := v }
  | .keyin => { s with keyin := v }
  | .din => { s with din := v }
  | .dout => { s with dout := v }
  | .eks i => { s with eks := s.eks.set i v }
  | .dks i => { s with dks := s.dks.set i v }
  | .s j => s.writeS j v

/-- The value a host read of a control register gives, at its full width; `CMD` reads 0 (10_state R28, R29; 44_facade R253). -/
def State.readCR (s : State) : CR → Nat
  | .cmd => 0
  | .status => s.status.toNat
  | .errcode => s.errcode.toNat
  | .errinfo => s.errinfo.toNat
  | .src => s.src
  | .dst => s.dst
  | .len => s.len
  | .workers => s.hint.toNat
  | .keyin => s.keyin.toNat
  | .din => s.din.toNat
  | .dout => s.dout.toNat

/-- A host write of a control register other than `CMD`: registers 4 to 9 take the value at their width, the read-only ones
ignore it (10_state R28; 44_facade R254). A write of `CMD` stores nothing (10_state R29). -/
def State.writeCR (s : State) (n : CR) (v : Nat) : State :=
  match n with
  | .cmd => s
  | .status => s
  | .errcode => s
  | .errinfo => s
  | .src => { s with src := v % 2 ^ s.platform.aw }
  | .dst => { s with dst := v % 2 ^ s.platform.aw }
  | .len => { s with len := v % 2 ^ s.platform.aw }
  | .workers => { s with hint := BitVec.ofNat 32 v }
  | .keyin => { s with keyin := BitVec.ofNat 128 v }
  | .din => { s with din := BitVec.ofNat 128 v }
  | .dout => s

end Sys2Proof.Machine
end

