-- ==== Sys2Proof/Machine/Ops.lean ====
section
/-! DEFINITION. The shared operations: buffer memory (20_memory), the admission of a block access (R65), the overlap rule (R67),
the error entry and the success return of a command (44_facade R255, 60_exceptions R276, R277), the life-cycle guards, and the
redrawing of what the spec leaves unspecified. -/

namespace Sys2Proof.Machine

/-- What an unlisted byte of buffer memory reads as (10_state R47 gives no contents; log 5, DESIGN CHOICE, unsafe). -/
def unlistedByte : Byte := 0

/-- The canonical form of memory. -/
def memWf (m : List Host.Cell) : Bool := sparseWf unlistedByte m

/-- The byte at `a`. -/
def memByte (m : List Host.Cell) (a : Nat) : Byte := sparseGet unlistedByte m a

/-- Memory with byte `b` at `a`. -/
def memSetByte (m : List Host.Cell) (a : Nat) (b : Byte) : List Host.Cell := sparsePut unlistedByte m a b

/-- The `n` bytes from `a` up. -/
def memBytes (m : List Host.Cell) (a n : Nat) : List Byte := (List.range n).map (fun i => memByte m (a + i))

/-- Memory with the bytes of a list at `a`, `a + 1`, ... -/
def memSetBytes (m : List Host.Cell) (a : Nat) : List Byte → List Host.Cell
  | [] => m
  | b :: bs => memSetBytes (memSetByte m a b) (a + 1) bs

/-- `MemRead(a, 16)`: the byte at the lowest address is byte 0 (20_memory R62). -/
def memRead (m : List Host.Cell) (a : Nat) : Block := ofBytes (fun i => memByte m (a + i))

/-- `MemWrite(a, 16, V)`: `mem[a + i] <- V.b[i]` (20_memory R62). -/
def memWrite (m : List Host.Cell) (a : Nat) (V : Block) : List Host.Cell :=
  memSetBytes m a ((List.range 16).map (byteOf V))

/-- `MEM_VALID(a)`: the platform has the byte (00_scope R9), an AW-bit address in one of its regions. -/
def memValid (p : Platform) (a : Nat) : Bool :=
  decide (a < 2 ^ p.aw) && p.regions.any (fun r => decide (r.base ≤ a) && decide (a < r.base + r.size))

/-- A block access at `a` is admitted: all 16 bytes lie below `2^AW` and satisfy `MEM_VALID` (20_memory R65). -/
def admitted (p : Platform) (a : Nat) : Bool :=
  decide (a + 15 < 2 ^ p.aw) && (List.range 16).all (fun k => memValid p (a + k))

/-- The call is defined: nothing to process, in place, or disjoint ranges of `n` bytes (20_memory R67). -/
def callDefined (src dst n : Nat) : Bool :=
  decide (n = 0) || decide (src = dst) || decide (src + n ≤ dst) || decide (dst + n ≤ src)

/-- THE ERROR ENTRY (44_facade R255, 60_exceptions R276): `ERRCODE`, `ERRINFO`, `STATUS.ERR` and `seq` are written; nothing is
saved and control goes nowhere. -/
def State.raise (e : Err) (info : Word) (s : State) : State :=
  { s with errcode := e.code, errinfo := info, status := withErrBit true s.status, phase := .idle, rnd := 0 }

/-- THE SUCCESS RETURN (44_facade R255, 60_exceptions R277). -/
def State.ret (s : State) : State :=
  { s with errcode := 0, errinfo := 0, status := withErrBit false s.status, phase := .idle, rnd := 0 }

/-- `seq <- (phase, rnd)` (00_scope R12). -/
def State.goto (p : Phase) (r : Nat) (s : State) : State := { s with phase := p, rnd := r }

/-- A host operation happens only in `phase = IDLE` (44_facade R240); otherwise the model refuses (U5; log 18). -/
def State.whenIdle (s : State) (r : Result) : Result :=
  match s.phase with
  | .idle => r
  | _ => .refused .hostWhileBusy

/-- A cipher command runs in `READY`; in `EMPTY` it ends with `IllegalState` (60_exceptions R275, R285). -/
def State.whenKeyed (s : State) (r : Result) : Result :=
  if s.keyed then r else .next (s.raise .illegalState 0)

/-- The key store becomes unspecified (44_facade R251, U2; log 12). -/
def State.redrawKeyStore (s : State) : State :=
  { s with
    key := Config.freeBlock s.freeCount
    eks := Config.freeSchedule s.freeCount
    dks := Config.freeSchedule (s.freeCount + 1)
    freeCount := s.freeCount + 2 }

/-- The KeyScheduler's working registers become unspecified, as they are between commands (10_state R23; log 11). -/
def State.redrawWorking (s : State) : State :=
  { s with
    k := Config.freeBlock s.freeCount
    t := Config.freeBlock (s.freeCount + 1)
    u := Config.freeBlock (s.freeCount + 2)
    freeCount := s.freeCount + 3 }

/-- The registers `S[0] .. S[n-1]` of workers that have ended hold free values: no state of a worker survives its call
(60_exceptions R288; log 13). -/
def redrawWorkerBlocks (c n : Nat) (m : List (Nat × Block)) : List (Nat × Block) :=
  (List.range n).foldl (fun m j => sparsePut unwrittenS m j (Config.freeBlock (c + j))) m

/-- The work assignment is discarded: the workers cease to exist with their `S[j]`, and the dispatcher's registers become
unspecified, as they are outside a call (10_state R24, R44, 43_parallel R214, R219, 60_exceptions R288; log 13). -/
def State.discardCall (s : State) : State :=
  { s with
    dir := if Config.freeBool s.freeCount then .enc else .dec
    nblk := Config.freeNat s.freeCount
    wcount := Config.freeNat (s.freeCount + 1)
    base := Config.freeNat (s.freeCount + 2)
    extra := Config.freeNat (s.freeCount + 3)
    workers := []
    sreg := redrawWorkerBlocks s.freeCount s.workers.length s.sreg
    freeCount := s.freeCount + 4 + s.workers.length }

/-- Worker registers hold unspecified values: finitely many free cells over what they held (log 4). -/
def State.redrawS (s : State) : State :=
  { s with
    sreg := (Config.freeCells s.freeCount).foldl (fun m c => sparsePut unwrittenS m c.1 c.2) s.sreg
    freeCount := s.freeCount + 1 }

/-- `KEYIN`, `DIN`, `DOUT` hold unspecified values (70_reset R302). -/
def State.redrawData (s : State) : State :=
  { s with
    keyin := Config.freeBlock s.freeCount
    din := Config.freeBlock (s.freeCount + 1)
    dout := Config.freeBlock (s.freeCount + 2)
    freeCount := s.freeCount + 3 }

/-- THE RESET EVENT (70_reset R300, R302; 10_state R48): the listed registers become 0 and `seq` `(IDLE, 0)`, no worker exists,
every other register is redrawn, and buffer memory is untouched. What the host still has to do is the host's, not reset's. -/
def State.resetEvent (s : State) : State :=
  let f := s.redrawData.redrawKeyStore.redrawWorking.discardCall.redrawS
  { f with
    status := 0, errcode := 0, errinfo := 0, src := 0, dst := 0, len := 0, hint := 0
    phase := .idle, rnd := 0, useq := [], resp := none }

/-- The destination of an abandoned call: each of its blocks is left or overwritten with any bytes, as free values say; a block
the platform does not admit is never written (70_reset R301; log 19). -/
def redrawBlocks (p : Platform) (dst n c : Nat) (m : List Host.Cell) : List Host.Cell :=
  (List.range n).foldl (fun m i =>
    if admitted p (dst + 16 * i) && Config.freeBool (c + i) then memWrite m (dst + 16 * i) (Config.freeBlock (c + i)) else m) m

/-- A RESET WHILE THE WORKERS RUN (70_reset R301): the command is abandoned, the workers cease, the destination holds an
unspecified mixture; the registers are as after any reset. -/
def State.abandonCall (s : State) : State :=
  { s with
    mem := redrawBlocks s.platform s.dst s.nblk s.freeCount s.mem
    freeCount := s.freeCount + s.nblk }.resetEvent

/-- The platform has all `n` bytes from `a` up (00_scope R9). -/
def bytesExist (p : Platform) (a n : Nat) : Bool := (List.range n).all (fun i => memValid p (a + i))

/-- A host store of bytes between commands; a byte the platform does not have faults (log 20). -/
def State.hostStore (a : Nat) (bytes : List Byte) (s : State) : Result :=
  if bytesExist s.platform a bytes.length then
    .next { s with mem := memSetBytes s.mem a bytes }
  else .fault (.hostStoreAbsent a)

/-- A host read of `n` bytes between commands (70_reset R317): it sees every store made so far (20_memory R73) and changes nothing
but the response; a byte the platform does not have faults (log 29). -/
def State.hostLoad (a n : Nat) (s : State) : Result :=
  if bytesExist s.platform a n then .next { s with resp := some (.memory a (memBytes s.mem a n)) }
  else .fault (.hostLoadAbsent a)

/-- `wstat[j] <- FAULT` (43_parallel R218). -/
def State.faultWorker (j : Nat) (s : State) : State :=
  { s with workers := s.workers.modify j (fun w => { w with wstat := .fault }) }

end Sys2Proof.Machine
end

