-- ==== Sys2Proof/Machine/Primitives.lean ====
section
/-! DEFINITION. The meanings of the primitive operations, level P (40_primitives R140 to R150). Each reads its operands, then
writes its destination; none writes a flag. -/

namespace Sys2Proof.Machine

/-- `PXOR d, a, b` (R140). -/
def execPxor (d a b : Reg) (s : State) : Result := .next (s.writeReg d (pxorOf (s.readReg a) (s.readReg b)))

/-- `PSLLDQ4 d, a` (R141). -/
def execPslldq4 (d a : Reg) (s : State) : Result := .next (s.writeReg d (pslldq4Of (s.readReg a)))

/-- `PSHUFD_FF d, a` (R142). -/
def execPshufdFf (d a : Reg) (s : State) : Result := .next (s.writeReg d (pshufdFfOf (s.readReg a)))

/-- `AESKEYGENASSIST d, a, imm8` (R143). -/
def execAeskeygenassist (d a : Reg) (imm8 : Byte) (s : State) : Result :=
  .next (s.writeReg d (assistOf (s.readReg a) imm8))

/-- `AESIMC d, a` (R144). -/
def execAesimc (d a : Reg) (s : State) : Result := .next (s.writeReg d (aesimcOf (s.readReg a)))

/-- `AESENC d, a, k` (R145). -/
def execAesenc (d a rk : Reg) (s : State) : Result := .next (s.writeReg d (aesencOf (s.readReg a) (s.readReg rk)))

/-- `AESENCLAST d, a, k` (R146). -/
def execAesenclast (d a rk : Reg) (s : State) : Result :=
  .next (s.writeReg d (aesenclastOf (s.readReg a) (s.readReg rk)))

/-- `AESDEC d, a, k` (R147). -/
def execAesdec (d a rk : Reg) (s : State) : Result := .next (s.writeReg d (aesdecOf (s.readReg a) (s.readReg rk)))

/-- `AESDECLAST d, a, k` (R148). -/
def execAesdeclast (d a rk : Reg) (s : State) : Result :=
  .next (s.writeReg d (aesdeclastOf (s.readReg a) (s.readReg rk)))

/-- `LDBLK S[j], addr` (R149): an access that is not admitted faults worker `j`, reads nothing and leaves `S[j]` (R218). -/
def execLdblk (j addr : Nat) (s : State) : Result :=
  if admitted s.platform addr then .next (s.writeS j (memRead s.mem addr)) else .next (s.faultWorker j)

/-- `STBLK addr, S[j]` (R150): an access that is not admitted faults worker `j` and writes nothing (R218). -/
def execStblk (addr j : Nat) (s : State) : Result :=
  if admitted s.platform addr then .next { s with mem := memWrite s.mem addr (s.readS j) } else .next (s.faultWorker j)

end Sys2Proof.Machine
end

