-- ==== Sys2Proof/Machine/KeySchedule.lean ====
section
/-! DEFINITION. The KeyScheduler (41_keyschedule): the expansion as functions (R171, R173, R174) and its micro-sequence rows
(R172, R173, R174) as lists of micro-operations. The rows do not use the functions. -/

namespace Sys2Proof.Machine

/-- One expansion step (R173): the assisted dword in all columns, three shift-and-xor folds, the final xor. -/
def ksStep (k : Block) (rc : Byte) : Block :=
  let t := pshufdFfOf (assistOf k rc)
  let k1 := pxorOf k (pslldq4Of k)
  let k2 := pxorOf k1 (pslldq4Of k1)
  let k3 := pxorOf k2 (pslldq4Of k2)
  pxorOf k3 t

/-- `E[i]` of `expand_enc(key)` (R171). -/
def expandKey (key : Block) : Nat → Block
  | 0 => key
  | i + 1 => ksStep (expandKey key i) (rcon (i + 1))

/-- `expand_enc(key)` (R171). -/
def expandEnc (key : Block) : Schedule := Vector.ofFn (fun i => expandKey key i.val)

/-- `expand_dec(E)` (R174): round keys 1 to 9 through the inverse mix-columns transform, 0 and 10 copied. -/
def expandDec (E : Schedule) : Schedule :=
  Vector.ofFn (fun i => if i.val = 0 ∨ i.val = 10 then E.get i else invMixColumns (E.get i))

/-- A primitive as a row issues it: its selector word and routing (30_encoding R95). Only primitives stand in rows. -/
def issue (i : Instr) : MicroOp :=
  match encode i with
  | .p w r => .prim w r
  | .c _ => .ret
  | .h _ _ => .ret

/-- The nine primitives of `K <- ks_step(K, rc)` (R173). -/
def ksStepOps (rc : Byte) : List MicroOp :=
  [issue (.aeskeygenassist .t .k rc),
   issue (.pshufdFf .t .t),
   issue (.pslldq4 .u .k), issue (.pxor .k .k .u),
   issue (.pslldq4 .u .k), issue (.pxor .k .k .u),
   issue (.pslldq4 .u .k), issue (.pxor .k .k .u),
   issue (.pxor .k .k .t)]

/-- The rows of the `KS_FWD` phase (R172). -/
def ksFwdRow (i : Nat) : List MicroOp :=
  if i = 0 then [.move .k .key, .move (Reg.ek 0) .k, .goto .ksFwd 1]
  else ksStepOps (rcon i) ++
    [.move (Reg.ek i) .k, if i < 10 then .goto .ksFwd (i + 1) else .goto .ksInv 0]

/-- The rows of the `KS_INV` phase (R174); after the last, `CONSTRUCT` ends (44_facade R241). -/
def ksInvRow (i : Nat) : List MicroOp :=
  if i = 0 then [.move (Reg.dk 0) (Reg.ek 0), .goto .ksInv 1]
  else if i < 10 then [issue (.aesimc (Reg.dk i) (Reg.ek i)), .goto .ksInv (i + 1)]
  else [.move (Reg.dk 10) (Reg.ek 10), .goto .idle 0, .keyed]

end Sys2Proof.Machine
end

