-- ==== Sys2Proof/Machine/BlockCipher.lean ====
section
/-! DEFINITION. The BlockCipherCore (42_blockcipher): the block transforms as functions (R191, R194) and their micro-sequence
rows (R192, R195). The rows do not use the functions. -/

namespace Sys2Proof.Machine

/-- Round key `i` of a schedule; every use has `i` at most 10. -/
def roundKey (E : Schedule) (i : Nat) : Block := E.get (Fin.ofNat 11 i)

/-- `encrypt_block(P, E)` (R191). -/
def encryptBlock (P : Block) (E : Schedule) : Block :=
  let s0 := P ^^^ roundKey E 0
  let s9 := [1, 2, 3, 4, 5, 6, 7, 8, 9].foldl (fun x i => aesencOf x (roundKey E i)) s0
  aesenclastOf s9 (roundKey E 10)

/-- `decrypt_block(C, D)` (R194). -/
def decryptBlock (C : Block) (D : Schedule) : Block :=
  let s0 := C ^^^ roundKey D 10
  let s9 := [9, 8, 7, 6, 5, 4, 3, 2, 1].foldl (fun x i => aesdecOf x (roundKey D i)) s0
  aesdeclastOf s9 (roundKey D 0)

/-- The primitive of round `r` on `S[j]`: R192 encrypting, R195 decrypting, where the round-key index is `10 - r`. -/
def roundPrim (d : Dir) (j r : Nat) : Instr :=
  match d with
  | .enc =>
    if r = 0 then .pxor (.s j) (.s j) (Reg.ek 0)
    else if r < 10 then .aesenc (.s j) (.s j) (Reg.ek r)
    else .aesenclast (.s j) (.s j) (Reg.ek 10)
  | .dec =>
    if r = 0 then .pxor (.s j) (.s j) (Reg.dk 10)
    else if r < 10 then .aesdec (.s j) (.s j) (Reg.dk (10 - r))
    else .aesdeclast (.s j) (.s j) (Reg.dk 0)

/-- The rows of the `BLK` phase: a round on `S[0]`; after the last, `DOUT <- S[0]` and the command returns (R193, R196). -/
def blkRow (d : Dir) (r : Nat) : List MicroOp :=
  if r < 10 then [issue (roundPrim d 0 r), .goto .blk (r + 1)]
  else [issue (roundPrim d 0 r), .move .dout (.s 0), .ret]

end Sys2Proof.Machine
end

