-- ==== Sys2Proof/Machine/Parallel.lean ====
section
/-! DEFINITION. The ParallelExecutor (43_parallel): the work assignment (R211 to R213), the worker's steps (R217, R218), the
choice of the worker that moves (R216) and the join (R219). -/

namespace Sys2Proof.Machine

/-- The worker count `W = max(1, min(WORKERS, nblk))` (R211). -/
def clampWorkers (hint nblk : Nat) : Nat := max 1 (min hint nblk)

/-- `lo[j] = j*base + min(j, extra)`; `hi[j]` is `rangeLo base extra (j + 1)` (R213). -/
def rangeLo (base extra j : Nat) : Nat := j * base + min j extra

/-- Worker `j` as the dispatcher makes it (R214). -/
def freshWorker (base extra j : Nat) : Worker :=
  { lo := rangeLo base extra j
    hi := rangeLo base extra (j + 1)
    cur := rangeLo base extra j
    wrnd := 0
    wstat := if rangeLo base extra j < rangeLo base extra (j + 1) then .run else .done
    stage := .load }

/-- The `DISPATCH` micro-step (R214). -/
def State.dispatchCall (s : State) : State :=
  let W := clampWorkers s.hint.toNat s.nblk
  let base := s.nblk / W
  let extra := s.nblk % W
  { s with
    wcount := W, base := base, extra := extra
    workers := (List.range W).map (freshWorker base extra)
    phase := .run, rnd := 0 }

/-- The indices of the workers that have a step, in rising order (R215). -/
def runningWorkers (ws : List Worker) : List Nat :=
  (List.range ws.length).filter (fun j => match ws[j]? with
    | some w => w.wstat == .run
    | none => false)

/-- Which of the running workers `js` moves for the scheduler's choice `c` (R216; log 6). -/
def pickWorker (js : List Nat) (c : Nat) : Nat := js.getD (c % js.length) 0

/-- The next micro-operations of worker `j`: one primitive of R217 and the bookkeeping after it. -/
def workerRow (s : State) (j : Nat) : List MicroOp :=
  match s.workers[j]? with
  | none => []
  | some w =>
    match w.stage with
    | .load => [issue (.ldblk j (s.src + 16 * w.cur)), .loaded j]
    | .rounds => [issue (roundPrim s.dir j w.wrnd), .rounded j]
    | .store => [issue (.stblk (s.dst + 16 * w.cur) j), .stored j]

/-- Bookkeeping changes a worker only while it is in `RUN`: a worker that faulted stays as it is (R218). -/
def ifRunning (f : Worker → Worker) (w : Worker) : Worker :=
  match w.wstat with
  | .run => f w
  | _ => w

/-- After step 1 of R217. -/
def workerLoaded (w : Worker) : Worker := { w with stage := .rounds, wrnd := 0 }

/-- After one round of R192 or R195; after round 10 the block is done. -/
def workerRounded (w : Worker) : Worker :=
  if w.wrnd < 10 then { w with wrnd := w.wrnd + 1 } else { w with stage := .store }

/-- Step 4 of R217: `cur <- cur + 1 ; wrnd <- 0`, and `DONE` at the end of the range. -/
def workerStored (w : Worker) : Worker :=
  { w with
    cur := w.cur + 1, wrnd := 0, stage := .load
    wstat := if w.cur + 1 = w.hi then .done else .run }

/-- A bookkeeping operation on worker `j`. -/
def State.updateWorker (j : Nat) (f : Worker → Worker) (s : State) : State :=
  { s with workers := s.workers.modify j (ifRunning f) }

/-- The lowest index of a worker in `FAULT` (R219). -/
def firstFault (ws : List Worker) : Option Nat := ws.findIdx? (fun w => w.wstat == .fault)

/-- The join (R219): success, or `WorkerFailure` with the lowest faulted index; the work assignment is discarded. -/
def State.joinCall (s : State) : State :=
  match firstFault s.workers with
  | none => s.discardCall.ret
  | some f => s.discardCall.raise .workerFailure (BitVec.ofNat 32 f)

/-- The workers' turn: the scheduler's choice `c` picks a running worker and its next row is laid down; when none is running,
`seq <- (JOIN, 0)` (R214, R216, R219). -/
def State.turn (c : Nat) (s : State) : State :=
  match runningWorkers s.workers with
  | [] => s.goto .join 0
  | js => { s with sched := s.sched.tail, useq := workerRow s (pickWorker js c) }

/-- One step of the `RUN` phase with no micro-operation left: a turn, or a reset from outside (70_reset R301). With no choice
left the lowest running worker moves (log 6). -/
def State.runStep (s : State) : State :=
  match s.sched.headD (.worker 0) with
  | .reset => { s.abandonCall with sched := s.sched.tail }
  | .worker c => s.turn c

end Sys2Proof.Machine
end

