-- ==== Sys2Proof/Machine/Sequencer.lean ====
section
/-! DEFINITION. The sequencer (10_state R40): the micro-operations, the row each `seq` names, a whole row as one micro-step, and
a whole command as one transition (R40 permits it for everything but the `RUN` phase). -/

namespace Sys2Proof.Machine

/-- The datapath executes a primitive (30_encoding R95). These are the meanings `exec` calls, by the same names. -/
def datapath (i : Instr) (s : State) : Result :=
  match i with
  | .pxor d a b => execPxor d a b s
  | .pslldq4 d a => execPslldq4 d a s
  | .pshufdFf d a => execPshufdFf d a s
  | .aeskeygenassist d a imm8 => execAeskeygenassist d a imm8 s
  | .aesimc d a => execAesimc d a s
  | .aesenc d a rk => execAesenc d a rk s
  | .aesenclast d a rk => execAesenclast d a rk s
  | .aesdec d a rk => execAesdec d a rk s
  | .aesdeclast d a rk => execAesdeclast d a rk s
  | .ldblk j addr => execLdblk j addr s
  | .stblk addr j => execStblk addr j s
  | .construct => .refused .notAPrimitive
  | .encrypt _ => .refused .notAPrimitive
  | .decrypt _ => .refused .notAPrimitive
  | .encb => .refused .notAPrimitive
  | .decb => .refused .notAPrimitive
  | .destroy => .refused .notAPrimitive
  | .crread _ => .refused .notAPrimitive
  | .crwrite _ _ => .refused .notAPrimitive

/-- The refusal that names a decoding error met by `step` (an illegal command word is none: 30_encoding R97 makes it an error
outcome, so it never gets here; it is named like a malformed transaction for totality). -/
def refusalOf : DecodeError → Refusal
  | .illegalCommand _ => .badPayload
  | .reservedRegister n => .reservedRegister n
  | .badPayload => .badPayload
  | .reservedSelector w => .reservedSelector w
  | .badRoute w => .badRoute w

/-- The `PROBE` micro-step (44_facade R241, 60_exceptions R271): without hardware support nothing is written; with it the key
is taken and the expansion starts. -/
def State.probeStep (s : State) : State :=
  if s.platform.hwcap then { s with key := s.keyin, phase := .ksFwd, rnd := 0 }
  else s.raise .unsupportedHardware 0

/-- The end of `CONSTRUCT` (44_facade R241): `STATUS.KEYED <- 1 ; return`; `K` and `T` are unspecified from here (10_state R23). -/
def State.constructEnd (s : State) : State := (s.setKeyed true).redrawWorking.ret

/-- What one micro-operation does. -/
def doMicroOp (op : MicroOp) (s : State) : Result :=
  match op with
  | .prim w r =>
    match decodePrim w r with
    | .ok i => datapath i s
    | .error e => .refused (refusalOf e)
  | .move d a => .next (s.writeReg d (s.readReg a))
  | .goto p r => .next (s.goto p r)
  | .probe => .next s.probeStep
  | .keyed => .next s.constructEnd
  | .ret => .next s.ret
  | .dispatch => .next s.dispatchCall
  | .join => .next s.joinCall
  | .loaded j => .next (s.updateWorker j workerLoaded)
  | .rounded j => .next (s.updateWorker j workerRounded)
  | .stored j => .next (s.updateWorker j workerStored)

/-- The row of micro-operations `seq` names (10_state R40): 41_keyschedule R172, R174, 42_blockcipher R192, R195, 43_parallel
R214, 44_facade R241. `IDLE` has none, and `RUN` is `State.runStep`. -/
def seqRow (s : State) : List MicroOp :=
  match s.phase with
  | .idle => []
  | .probe => [.probe]
  | .ksFwd => ksFwdRow s.rnd
  | .ksInv => ksInvRow s.rnd
  | .blk => blkRow s.blkDir s.rnd
  | .dispatch => [.dispatch]
  | .run => []
  | .join => [.join]

/-- The micro-operations of a row, in order. -/
def runOps : List MicroOp → State → Result
  | [], s => .next s
  | op :: ops, s =>
    match doMicroOp op s with
    | .next s' => runOps ops s'
    | .fault f => .fault f
    | .refused r => .refused r

/-- One micro-step of the sequencer (10_state R40): the whole row of `seq`. -/
def microStep (s : State) : Result := runOps (seqRow s) s

/-- Micro-steps until the command has ended or its workers run, at most `n` (10_state R40: "execute a whole command as one
transition, except for the `RUN` phase"; log 7). -/
def runSeq : Nat → State → Result
  | 0, s => .next s
  | n + 1, s =>
    match s.phase with
    | .idle => .next s
    | .run => .next s
    | _ =>
      match microStep s with
      | .next s' => runSeq n s'
      | .fault f => .fault f
      | .refused r => .refused r

end Sys2Proof.Machine
end

