-- ==== Sys2Proof/Machine/Facade.lean ====
section
/-! DEFINITION. The meanings of the commands (level C): 44_facade R241, R244, R245, R251 and 42_blockcipher R193, R196. The words
they come from have been decoded: an illegal word never gets here (`issueCommand` raises `IllegalCommand`, R255). -/

namespace Sys2Proof.Machine

/-- `CONSTRUCT` (R241): 1 micro-step of `PROBE`, 11 of `KS_FWD`, 11 of `KS_INV`. -/
def execConstruct (s : State) : Result :=
  s.whenIdle (if s.keyed then .next (s.raise .illegalState 0) else runSeq 23 (s.goto .probe 0))

/-- `S[0] <- DIN`, then the 11 rounds of the phase `BLK` (42_blockcipher R193, R196). -/
def State.startBlock (d : Dir) (s : State) : State := ({ s with blkDir := d }.goto .blk 0).writeS 0 s.din

/-- `ENCB` (42_blockcipher R193). -/
def execEncb (s : State) : Result := s.whenIdle (s.whenKeyed (runSeq 11 (s.startBlock .enc)))

/-- `DECB` (42_blockcipher R196). -/
def execDecb (s : State) : Result := s.whenIdle (s.whenKeyed (runSeq 11 (s.startBlock .dec)))

/-- The length check of R244 and R247: `InvalidLength` under the policy FAIL. -/
def State.badLength (s : State) : Bool := decide (s.len % 16 ≠ 0) && decide (s.platform.lenPolicy = .fail)

/-- The body `ENCRYPT` and `DECRYPT` share (R244, R245): the checks in the order of 60_exceptions R279, the refusal of a
partially overlapping call (20_memory R67), then the dispatch. The answer is the state in which the workers run; the steps that
follow run them and join (43_parallel R214). -/
def startCall (d : Dir) (s : State) : Result :=
  if s.badLength then .next (s.raise .invalidLength 0)
  else if callDefined s.src s.dst (16 * (s.len / 16)) then
    runSeq 1 ({ s with nblk := s.len / 16, dir := d }.goto .dispatch 0)
  else .refused .partialOverlap

/-- `ENCRYPT` (R244). The only mode is ECB. -/
def execEncrypt (mode : Mode) (s : State) : Result :=
  match mode with
  | .ecb => s.whenIdle (s.whenKeyed (startCall .enc s))

/-- `DECRYPT` (R245). -/
def execDecrypt (mode : Mode) (s : State) : Result :=
  match mode with
  | .ecb => s.whenIdle (s.whenKeyed (startCall .dec s))

/-- `DESTROY` (R251): `STATUS.KEYED <- 0 ; return`; the key store holds unspecified values afterwards (U2; log 12). -/
def execDestroy (s : State) : Result := s.whenIdle (.next (s.setKeyed false).redrawKeyStore.ret)

end Sys2Proof.Machine
end

