-- ==== Sys2Proof/Machine/HostPort.lean ====
section
/-! DEFINITION. The meanings of the host register accesses (format H): 44_facade R253, R254, and the frame of a command (R255). -/

namespace Sys2Proof.Machine

/-- A decoded command runs. Only commands come from `decodeCommand`; the other forms are here for totality and end like an
illegal word. -/
def runCommand (i : Instr) (s : State) : Result :=
  match i with
  | .construct => execConstruct s
  | .encrypt m => execEncrypt m s
  | .decrypt m => execDecrypt m s
  | .encb => execEncb s
  | .decb => execDecb s
  | .destroy => execDestroy s
  | .crread _ => .next (s.raise .illegalCommand 0)
  | .crwrite _ _ => .next (s.raise .illegalCommand 0)
  | .pxor _ _ _ => .next (s.raise .illegalCommand 0)
  | .pslldq4 _ _ => .next (s.raise .illegalCommand 0)
  | .pshufdFf _ _ => .next (s.raise .illegalCommand 0)
  | .aeskeygenassist _ _ _ => .next (s.raise .illegalCommand 0)
  | .aesimc _ _ => .next (s.raise .illegalCommand 0)
  | .aesenc _ _ _ => .next (s.raise .illegalCommand 0)
  | .aesenclast _ _ _ => .next (s.raise .illegalCommand 0)
  | .aesdec _ _ _ => .next (s.raise .illegalCommand 0)
  | .aesdeclast _ _ _ => .next (s.raise .illegalCommand 0)
  | .ldblk _ _ => .next (s.raise .illegalCommand 0)
  | .stblk _ _ => .next (s.raise .illegalCommand 0)

/-- The frame of every command (44_facade R255): decode the word; an illegal word ends with `IllegalCommand` and changes nothing
else (30_encoding R97, 60_exceptions R274). -/
def issueCommand (w : BitVec 32) (s : State) : Result :=
  match decodeCommand w with
  | .ok i => runCommand i s
  | .error _ => .next (s.raise .illegalCommand 0)

/-- `CRREAD n` (R253): the response is the register's value; no other state changes. -/
def execCrread (n : CR) (s : State) : Result := s.whenIdle (.next { s with resp := some (.register n (s.readCR n)) })

/-- `CRWRITE n, v` (R254): a write of `CMD` issues the command, the others write or are ignored. -/
def execCrwrite (n : CR) (v : Nat) (s : State) : Result :=
  s.whenIdle (match n with
    | .cmd => issueCommand (BitVec.ofNat 32 v) s
    | n => .next (s.writeCR n v))

end Sys2Proof.Machine
end

