-- ==== Sys2Proof/Machine/Dispatch.lean ====
section
/-! DEFINITION. The one match from an instruction to its meaning. -/

namespace Sys2Proof.Machine

def exec (i : Instr) (s : State) : Host.Outcome State Fault Refusal :=
  match i with
  -- level C
  | .construct => Sys2Proof.Machine.execConstruct s
  | .encrypt mode => Sys2Proof.Machine.execEncrypt mode s
  | .decrypt mode => Sys2Proof.Machine.execDecrypt mode s
  | .encb => Sys2Proof.Machine.execEncb s
  | .decb => Sys2Proof.Machine.execDecb s
  | .destroy => Sys2Proof.Machine.execDestroy s
  -- format H
  | .crread n => Sys2Proof.Machine.execCrread n s
  | .crwrite n v => Sys2Proof.Machine.execCrwrite n v s
  -- level P
  | .pxor d a b => Sys2Proof.Machine.execPxor d a b s
  | .pslldq4 d a => Sys2Proof.Machine.execPslldq4 d a s
  | .pshufdFf d a => Sys2Proof.Machine.execPshufdFf d a s
  | .aeskeygenassist d a imm8 => Sys2Proof.Machine.execAeskeygenassist d a imm8 s
  | .aesimc d a => Sys2Proof.Machine.execAesimc d a s
  | .aesenc d a rk => Sys2Proof.Machine.execAesenc d a rk s
  | .aesenclast d a rk => Sys2Proof.Machine.execAesenclast d a rk s
  | .aesdec d a rk => Sys2Proof.Machine.execAesdec d a rk s
  | .aesdeclast d a rk => Sys2Proof.Machine.execAesdeclast d a rk s
  | .ldblk j addr => Sys2Proof.Machine.execLdblk j addr s
  | .stblk addr j => Sys2Proof.Machine.execStblk addr j s

end Sys2Proof.Machine
end

