-- ==== Sys2Proof/Machine/Fetch.lean ====
section
/-! DEFINITION. Where the next operation comes from and how it runs: a micro-operation of the row in hand, a host operation, or
the next row. -/

namespace Sys2Proof.Machine

/-- A micro-operation is done: a primitive word is decoded and executed as an instruction (30_encoding R95). -/
def stepMicroOp (op : MicroOp) (s : State) : Result :=
  match op with
  | .prim w r =>
    match decodePrim w r with
    | .ok i => exec i s
    | .error e => .refused (refusalOf e)
  | op => doMicroOp op s

/-- A host operation is done (70_reset R317): a register access is decoded and executed as an instruction (30_encoding R94). -/
def stepHostEvent (e : HostEvent) (s : State) : Result :=
  match e with
  | .access header payload =>
    match decodeAccess s.platform.aw header payload with
    | .ok i => exec i s
    | .error e => .refused (refusalOf e)
  | .store a bytes => s.hostStore a bytes
  | .load a n => s.hostLoad a n
  | .reset => .next s.resetEvent

/-- In `IDLE` the core executes nothing until the host does something (70_reset R300). -/
def stepIdle (s : State) : Result :=
  match s.hostq with
  | [] => .next s
  | e :: q => stepHostEvent e { s with hostq := q }

/-- One step: what is left of the row in hand comes first; in `IDLE` the host moves; in `RUN` a worker; in any other phase the
row `seq` names is taken in hand (10_state R40). -/
def stepOf (s : State) : Result :=
  match s.useq with
  | op :: ops => stepMicroOp op { s with useq := ops }
  | [] =>
    match s.phase with
    | .idle => stepIdle s
    | .run => .next s.runStep
    | _ => .next { s with useq := seqRow s }

/-- The state in which the next step is the host operation `e`. -/
def State.withHostEvent (e : HostEvent) (s : State) : State :=
  { s with phase := .idle, rnd := 0, useq := [], hostq := e :: s.hostq }

/-- The state in which the next step is the primitive word `w` with the operands of `Route.zero`. -/
def State.withPrimWord (w : BitVec 12) (s : State) : State := { s with useq := .prim w Route.zero :: s.useq }

/-- An opcode-table word placed where the next step fetches it (logs 9, 10, 27): a command word as the host's write of `CMD`, a
host header with the payload 0, a primitive word in the row in hand. -/
def placeWord (s : State) (nbits w : Nat) : State :=
  if nbits = 32 then s.withHostEvent (.access 0b10000 w)
  else if nbits = 8 then s.withHostEvent (.access (BitVec.ofNat 5 w) 0)
  else s.withPrimWord (BitVec.ofNat 12 w)

end Sys2Proof.Machine
end

