-- ==== Sys2Proof/Machine/Step.lean ====
section
/-! DEFINITION. One step of the machine. -/

namespace Sys2Proof.Machine

/-- One step (`stepOf`). -/
def step (s : State) : Host.Outcome State Fault Refusal := stepOf s

/-- The state whose next step fetches and runs the opcode-table word (`placeWord`). -/
def State.withFetchWord (s : State) (nbits w : Nat) : State := placeWord s nbits w

end Sys2Proof.Machine
end

