-- ==== Sys2Proof/Safety.lean ====
section
/-! DEFINITION. The terms in which claims about the core are made: what a well-formed state is, what stands between the steps of
a run, and what a call of `ENCRYPT` or `DECRYPT` must leave behind. -/

namespace Sys2Proof.Machine

/-- Between two operations of the host: `phase = IDLE` and nothing in hand. -/
def State.Quiet (s : State) : Prop := s.phase = .idle ∧ s.useq = []

/-- Memory and the worker registers are in their canonical form. -/
def State.MemOk (s : State) : Prop := memWf s.mem = true ∧ sparseWf unwrittenS s.sreg = true

/-- `STATUS`, `ERRCODE` and `ERRINFO` agree (10_state R30, R31; 60_exceptions R270): reserved bits read 0, `ERR` is
`ERRCODE != 0`, the code is one of 0 to 6 and not 4, which the core never produces, and only `WorkerFailure` carries an index. -/
def State.StatusOk (s : State) : Prop :=
  s.status &&& ~~~3#32 = 0 ∧ s.err = decide (s.errcode ≠ 0) ∧ s.errcode.toNat ≤ 6 ∧ s.errcode ≠ 4 ∧
    (s.errcode ≠ 3 → s.errinfo = 0)

/-- `SRC`, `DST`, `LEN` are AW-bit values (10_state R32). -/
def State.AddressesOk (s : State) : Prop :=
  s.src < 2 ^ s.platform.aw ∧ s.dst < 2 ^ s.platform.aw ∧ s.len < 2 ^ s.platform.aw

/-- One worker's bookkeeping (10_state R45, R41; 43_parallel R217): `lo <= cur <= hi`, `wrnd` is 0 to 10, a worker in `RUN` has a
block to do and one in `DONE` has none. -/
def Worker.Ok (w : Worker) : Prop :=
  w.lo ≤ w.cur ∧ w.cur ≤ w.hi ∧ w.wrnd ≤ 10 ∧ (w.wstat = .run → w.cur < w.hi) ∧ (w.wstat = .done → w.cur = w.hi)

/-- The work assignment in hand (10_state R45; 43_parallel R213): every worker has its own range by the formula of R213, and when
workers exist there are `W` of them and their ranges end at `nblk`. -/
def State.WorkersOk (s : State) : Prop :=
  (∀ j w, s.workers[j]? = some w →
    w.Ok ∧ w.lo = rangeLo s.base s.extra j ∧ w.hi = rangeLo s.base s.extra (j + 1)) ∧
  (s.workers = [] ∨ s.workers.length = s.wcount ∧ rangeLo s.base s.extra s.wcount = s.nblk)

/-- The key store holds a key and its two schedules whenever `KEYED = 1` (10_state R27). -/
def State.KeyStoreOk (s : State) : Prop := s.keyed = true → s.eks = expandEnc s.key ∧ s.dks = expandDec s.eks

/-- A micro-operation of a worker's row: a primitive that writes some `S[j]` or memory, or a worker's bookkeeping. -/
def MicroOp.ofWorker : MicroOp → Bool
  | .prim _ r => match r.d with
    | .s _ => true
    | _ => false
  | .loaded _ => true
  | .rounded _ => true
  | .stored _ => true
  | .move _ _ => false
  | .goto _ _ => false
  | .probe => false
  | .keyed => false
  | .ret => false
  | .dispatch => false
  | .join => false

/-- What stands between the steps of a run (10_state R40): the core is idle with nothing in hand, or its workers run and the
row in hand is a worker's, or it joins. Every other phase lies inside one transition. -/
def State.SeqOk (s : State) : Prop :=
  match s.phase with
  | .idle => s.useq = []
  | .run => ∀ op ∈ s.useq, op.ofWorker = true
  | .join => s.useq = [] ∨ s.useq = [.join]
  | _ => False

/-- The invariant of 10_state R27 with what keeps it between steps. -/
def State.KeyStoreInv (s : State) : Prop := s.SeqOk ∧ s.KeyStoreOk

/-- The block transform of a direction with the schedules in `s` (43_parallel R221 `T`). -/
def State.blockOp (s : State) (d : Dir) (B : Block) : Block :=
  match d with
  | .enc => encryptBlock B s.eks
  | .dec => decryptBlock B s.dks

/-- The command of a direction. -/
def callInstr : Dir → Instr
  | .enc => .encrypt .ecb
  | .dec => .decrypt .ecb

/-- `nblk` of a call issued in `s` (30_encoding R96). -/
def State.callBlocks (s : State) : Nat := s.len / 16

/-- `W` of a call issued in `s` (43_parallel R211). -/
def State.callW (s : State) : Nat := clampWorkers s.hint.toNat s.callBlocks

/-- `lo[j]` of a call issued in `s`; `hi[j]` is `callLo (j + 1)` (43_parallel R213). -/
def State.callLo (s : State) (j : Nat) : Nat := rangeLo (s.callBlocks / s.callW) (s.callBlocks % s.callW) j

/-- Both accesses of block `i` of a call issued in `s` are admitted (20_memory R65). -/
def State.blockAdmitted (s : State) (i : Nat) : Bool :=
  admitted s.platform (s.src + 16 * i) && admitted s.platform (s.dst + 16 * i)

/-- Worker `j` of a call issued in `s` meets an access that is not admitted (43_parallel R218). -/
def State.workerFaults (s : State) (j : Nat) : Prop :=
  ∃ i, s.callLo j ≤ i ∧ i < s.callLo (j + 1) ∧ s.blockAdmitted i = false

/-- Block `i` is stored by a call issued in `s` (43_parallel R220): no block of its worker's range up to it is refused. -/
def State.blockWritten (s : State) (i : Nat) : Prop :=
  ∃ j, j < s.callW ∧ s.callLo j ≤ i ∧ i < s.callLo (j + 1) ∧ ∀ i', s.callLo j ≤ i' → i' ≤ i → s.blockAdmitted i' = true

/-- The conditions under which `ENCRYPT` and `DECRYPT` reach their workers (44_facade R244, 20_memory R67). -/
def State.CallLegal (s : State) : Prop :=
  s.Quiet ∧ s.MemOk ∧ s.keyed = true ∧ s.badLength = false ∧ callDefined s.src s.dst (16 * s.callBlocks) = true

/-- No reset arrives while a command runs (70_reset R301): the scheduler's list chooses workers only. -/
def State.NoReset (s : State) : Prop := ∀ c ∈ s.sched, c ≠ .reset

/-- What a call leaves alone (43_parallel R221; 10_state R32): everything but memory, the outcome, the worker registers and the
work assignment. -/
def State.CallFrame (s u : State) : Prop :=
  u.platform = s.platform ∧ u.keyin = s.keyin ∧ u.din = s.din ∧ u.dout = s.dout ∧ u.key = s.key ∧ u.eks = s.eks ∧
  u.dks = s.dks ∧ u.k = s.k ∧ u.t = s.t ∧ u.u = s.u ∧ u.src = s.src ∧ u.dst = s.dst ∧ u.len = s.len ∧ u.hint = s.hint ∧
  u.keyed = s.keyed ∧ u.hostq = s.hostq ∧ u.resp = s.resp

/-- The registers a host may write (44_facade R254), and the host's own side. -/
def State.HostRegsEq (s t : State) : Prop :=
  t.keyin = s.keyin ∧ t.din = s.din ∧ t.src = s.src ∧ t.dst = s.dst ∧ t.len = s.len ∧ t.hint = s.hint

/-- Everything but the 128-bit registers of the datapath (`K`, `T`, `U`, `KEY`, `EKS`, `DKS`, `KEYIN`, `DIN`, `DOUT`, `S[j]`)
agrees. -/
def State.SameButRegs (s t : State) : Prop :=
  { t with keyin := s.keyin, din := s.din, dout := s.dout, key := s.key, eks := s.eks, dks := s.dks, k := s.k, t := s.t,
           u := s.u, sreg := s.sreg } = s

/-- Whether an instruction is a command (level C). -/
def isCommand : Instr → Bool
  | .construct => true
  | .encrypt _ => true
  | .decrypt _ => true
  | .encb => true
  | .decb => true
  | .destroy => true
  | .crread _ => false
  | .crwrite _ _ => false
  | .pxor _ _ _ => false
  | .pslldq4 _ _ => false
  | .pshufdFf _ _ => false
  | .aeskeygenassist _ _ _ => false
  | .aesimc _ _ => false
  | .aesenc _ _ _ => false
  | .aesenclast _ _ _ => false
  | .aesdec _ _ _ => false
  | .aesdeclast _ _ _ => false
  | .ldblk _ _ => false
  | .stblk _ _ => false

/-- Whether an instruction is a primitive (level P). -/
def isPrim : Instr → Bool
  | .construct => false
  | .encrypt _ => false
  | .decrypt _ => false
  | .encb => false
  | .decb => false
  | .destroy => false
  | .crread _ => false
  | .crwrite _ _ => false
  | .pxor _ _ _ => true
  | .pslldq4 _ _ => true
  | .pshufdFf _ _ => true
  | .aeskeygenassist _ _ _ => true
  | .aesimc _ _ => true
  | .aesenc _ _ _ => true
  | .aesenclast _ _ _ => true
  | .aesdec _ _ _ => true
  | .aesdeclast _ _ _ => true
  | .ldblk _ _ => true
  | .stblk _ _ => true

/-- The destination register and the value of the nine data primitives (40_primitives R140 to R148). -/
def dataResult (s : State) : Instr → Option (Reg × Block)
  | .construct => none
  | .encrypt _ => none
  | .decrypt _ => none
  | .encb => none
  | .decb => none
  | .destroy => none
  | .crread _ => none
  | .crwrite _ _ => none
  | .pxor d a b => some (d, s.readReg a ^^^ s.readReg b)
  | .pslldq4 d a => some (d, s.readReg a <<< 32)
  | .pshufdFf d a => some (d, ofDwords (fun _ => dwordOf (s.readReg a) 3))
  | .aeskeygenassist d a imm8 => some (d, assistOf (s.readReg a) imm8)
  | .aesimc d a => some (d, invMixColumns (s.readReg a))
  | .aesenc d a rk => some (d, mixColumns (subBytes (shiftRows (s.readReg a))) ^^^ s.readReg rk)
  | .aesenclast d a rk => some (d, subBytes (shiftRows (s.readReg a)) ^^^ s.readReg rk)
  | .aesdec d a rk => some (d, invMixColumns (invSubBytes (invShiftRows (s.readReg a))) ^^^ s.readReg rk)
  | .aesdeclast d a rk => some (d, invSubBytes (invShiftRows (s.readReg a)) ^^^ s.readReg rk)
  | .ldblk _ _ => none
  | .stblk _ _ => none

end Sys2Proof.Machine
end

