-- ==== Sys2Proof/Certificates/Slice0/Obligations.lean ====
section
/-! DEFINITION. The statements for the provers. Each docstring names the rules of spec/ it rests on; where a clause is the
model's choice and not a rule, the docstring says so and names the log entry. -/

open Sys2Proof Sys2Proof.Machine

-- Encodings (30_encoding)

/-- Decoding an encoded well-formed instruction gives it back, all operands at every value the encoding admits
(30_encoding R91 to R95). The routing that stands beside a primitive's word is the model's (log 10). -/
def Obligations.DecodeEncodeRoundTrip : Prop :=
  ∀ (aw : Nat) (i : Instr), i.wf aw = true → decode aw (encode i) = .ok i

/-- The other direction: what decodes is well-formed, and a command word or a host access has no second reading; a primitive
word is the encoder's (its unused routing fields may differ). -/
def Obligations.EachWordHasOneMeaning : Prop :=
  (∀ (aw : Nat) (e : Encoded) (i : Instr), decode aw e = .ok i → i.wf aw = true) ∧
  (∀ (w : BitVec 32) (i : Instr), decodeCommand w = .ok i → encode i = .c w) ∧
  (∀ (aw : Nat) (h : BitVec 5) (p : Nat) (i : Instr), decodeAccess aw h p = .ok i → encode i = .h h p) ∧
  (∀ (w : BitVec 12) (r : Route) (i : Instr), decodePrim w r = .ok i → ∃ r', encode i = .p w r')

/-- Sample words, bit by bit from 30_encoding R91 to R95 (95_test_vectors V29, V60, V63), are read as the rules say. -/
def Obligations.SampleWordsDecode : Prop :=
  decodeTableWord 32 0x00000001 = some .construct ∧
  decodeTableWord 32 0x00000002 = some (.encrypt .ecb) ∧
  decodeTableWord 32 0x00000003 = some (.decrypt .ecb) ∧
  decodeTableWord 32 0x00000102 = none ∧
  decodeTableWord 8 0b00001 = some (.crread .status) ∧
  decodeTableWord 8 0b11000 = some (.crwrite .keyin 0) ∧
  decodeTableWord 8 0b11011 = none ∧
  decodePrim 0x1b3#12 { Route.zero with d := .t, a := .k } = .ok (.aeskeygenassist .t .k 0x1b) ∧
  decodePrim 0x006#12 { Route.zero with b := .eks 10 } = .ok (.aesenclast (.s 0) (.s 0) (.eks 10)) ∧
  decodePrim 0x00a#12 { Route.zero with j := 3, addr := 0x2000 } = .ok (.stblk 0x2000 3) ∧
  decodePrim 0x00b#12 Route.zero = .error (.reservedSelector 0x00b#12) ∧
  decodePrim 0x015#12 Route.zero = .error (.reservedSelector 0x015#12)

/-- 30_encoding R97, 60_exceptions R274: a command word is illegal exactly when its `op` is not 1 to 6, or its `rsv` is not 0, or
its `mode` is not 0; written to `CMD` it ends with `IllegalCommand` and nothing else changes. -/
def Obligations.IllegalCommandWord : Prop :=
  ∀ (w : BitVec 32) (s : State), s.phase = .idle →
    ((¬ (1 ≤ (w.extractLsb' 0 8).toNat ∧ (w.extractLsb' 0 8).toNat ≤ 6) ∨ w.extractLsb' 16 16 ≠ 0 ∨ w.extractLsb' 8 8 ≠ 0) ↔
      decodeCommand w = .error (.illegalCommand w)) ∧
    (decodeCommand w = .error (.illegalCommand w) →
      exec (.crwrite .cmd w.toNat) s =
        .next { s with errcode := 5, errinfo := 0, status := s.status ||| 2#32, phase := .idle, rnd := 0 })

/-- 30_encoding R98: register numbers 11 to 15 are reserved and refused, read or written; a write of `STATUS`, `ERRCODE`,
`ERRINFO` or `DOUT` is legal and ignored; a read of `CMD` is legal and returns 0. -/
def Obligations.ReservedRegisterNumbers : Prop :=
  (∀ (s : State) (w : BitVec 1) (n : BitVec 4) (p : Nat) (q : List HostEvent), s.Quiet →
      s.hostq = .access (w ++ n) p :: q → 11 ≤ n.toNat → step s = .refused (.reservedRegister n.toNat)) ∧
  (∀ (s : State) (n : CR) (v : Nat), s.phase = .idle → n = .status ∨ n = .errcode ∨ n = .errinfo ∨ n = .dout →
      exec (.crwrite n v) s = .next s) ∧
  (∀ (s : State), s.phase = .idle → exec (.crread .cmd) s = .next { s with resp := some (.register .cmd 0) })

-- One step

/-- In `IDLE` with nothing in hand a step takes the host's next operation: a register access runs as the instruction its header
and payload decode to, on the state without it; with no operation the core executes nothing (70_reset R300, 44_facade R240). -/
def Obligations.StepRunsHostAccess : Prop :=
  (∀ (s : State) (h : BitVec 5) (p : Nat) (q : List HostEvent) (i : Instr), s.Quiet → s.hostq = .access h p :: q →
      decodeAccess s.platform.aw h p = .ok i → step s = exec i { s with hostq := q }) ∧
  (∀ (s : State), s.Quiet → s.hostq = [] → step s = .next s)

/-- A primitive word at the head of the row in hand runs as the instruction it decodes to, on the state without it
(30_encoding R95). That rows are held in the state is the model's choice (log 8). -/
def Obligations.StepRunsPrimitive : Prop :=
  ∀ (s : State) (w : BitVec 12) (r : Route) (ops : List MicroOp) (i : Instr), s.useq = .prim w r :: ops →
    decodePrim w r = .ok i → step s = exec i { s with useq := ops }

/-- 44_facade R254, R255: a write of a command word to `CMD` runs the command. -/
def Obligations.CommandWriteRunsCommand : Prop :=
  ∀ (s : State) (w : BitVec 32) (i : Instr), s.phase = .idle → decodeCommand w = .ok i →
    exec (.crwrite .cmd w.toNat) s = exec i s

/-- 44_facade R240: no host operation is taken while a command runs; a command or register access met then is refused
(93_implementation_defined U5). -/
def Obligations.HostWaitsWhileBusy : Prop :=
  (∀ (s t : State), ¬ s.Quiet → step s = .next t → t.hostq = s.hostq) ∧
  (∀ (s : State) (i : Instr), s.phase ≠ .idle → isPrim i = false → exec i s = .refused .hostWhileBusy)

-- Fields and tables (40_primitives R121 to R125)

/-- 40_primitives R122: the round constants are the powers of `x`, `RCON[1] = 01` and `RCON[i+1] = xtime(RCON[i])`, which gives
the sequence `01, 02, 04, 08, 10, 20, 40, 80, 1B, 36`. -/
def Obligations.RoundConstantsArePowers : Prop :=
  rcon 1 = 0x01 ∧ (∀ i, 1 ≤ i → i < 10 → rcon (i + 1) = xtime (rcon i)) ∧
  (List.range 10).map (fun i => (rcon (i + 1)).toNat) = [0x01, 0x02, 0x04, 0x08, 0x10, 0x20, 0x40, 0x80, 0x1B, 0x36]

/-- `gfInv` is a multiplicative inverse with `inv(0) = 0` (40_primitives R123), and the field product has 1 as its unit and
distributes over addition (R120, R121). -/
def Obligations.FieldInverse : Prop :=
  (∀ a : Byte, a ≠ 0 → gmul a (gfInv a) = 1) ∧ gfInv 0 = 0 ∧ gfInv 0x53 = 0xCA ∧
  (∀ a : Byte, gmul a 1 = a) ∧ (∀ a b c : Byte, gmul (a ^^^ b) c = gmul a c ^^^ gmul b c) ∧
  gmul 0x57 0x13 = 0xFE ∧ gmul 0x57 0x83 = 0xC1

/-- The table `SBOX` is the affine map over the inverse (40_primitives R124), and `INVSBOX` its inverse permutation (R125). -/
def Obligations.SubstitutionTables : Prop :=
  (∀ a : Byte, sbox a = sboxByFormula a) ∧ (∀ a : Byte, invSbox (sbox a) = a) ∧ (∀ a : Byte, sbox (invSbox a) = a)

-- Transforms and data primitives (40_primitives R126 to R148)

/-- The byte transforms, byte by byte (40_primitives R126 to R130): substitution, row shifts by `b[r + 4c]`, the two column
matrices, `RotWord`. -/
def Obligations.TransformsByteByByte : Prop :=
  ∀ (V : Block),
    (∀ i, i < 16 → byteOf (subBytes V) i = sbox (byteOf V i) ∧ byteOf (invSubBytes V) i = invSbox (byteOf V i)) ∧
    (∀ r c, r < 4 → c < 4 →
      byteOf (shiftRows V) (r + 4 * c) = byteOf V (r + 4 * ((c + r) % 4)) ∧
      byteOf (invShiftRows V) (r + 4 * ((c + r) % 4)) = byteOf V (r + 4 * c)) ∧
    (∀ c, c < 4 →
      let a0 := byteOf V (4 * c); let a1 := byteOf V (4 * c + 1); let a2 := byteOf V (4 * c + 2); let a3 := byteOf V (4 * c + 3)
      byteOf (mixColumns V) (4 * c) = gmul a0 0x02 ^^^ gmul a1 0x03 ^^^ a2 ^^^ a3 ∧
      byteOf (mixColumns V) (4 * c + 1) = a0 ^^^ gmul a1 0x02 ^^^ gmul a2 0x03 ^^^ a3 ∧
      byteOf (mixColumns V) (4 * c + 2) = a0 ^^^ a1 ^^^ gmul a2 0x02 ^^^ gmul a3 0x03 ∧
      byteOf (mixColumns V) (4 * c + 3) = gmul a0 0x03 ^^^ a1 ^^^ a2 ^^^ gmul a3 0x02 ∧
      byteOf (invMixColumns V) (4 * c) = gmul a0 0x0E ^^^ gmul a1 0x0B ^^^ gmul a2 0x0D ^^^ gmul a3 0x09 ∧
      byteOf (invMixColumns V) (4 * c + 1) = gmul a0 0x09 ^^^ gmul a1 0x0E ^^^ gmul a2 0x0B ^^^ gmul a3 0x0D ∧
      byteOf (invMixColumns V) (4 * c + 2) = gmul a0 0x0D ^^^ gmul a1 0x09 ^^^ gmul a2 0x0E ^^^ gmul a3 0x0B ∧
      byteOf (invMixColumns V) (4 * c + 3) = gmul a0 0x0B ^^^ gmul a1 0x0D ^^^ gmul a2 0x09 ^^^ gmul a3 0x0E) ∧
    (∀ w : Word, dwordByte (rotWord w) 0 = dwordByte w 1 ∧ dwordByte (rotWord w) 1 = dwordByte w 2 ∧
      dwordByte (rotWord w) 2 = dwordByte w 3 ∧ dwordByte (rotWord w) 3 = dwordByte w 0 ∧
      rotWord (subWord w) = subWord (rotWord w))

/-- 40_primitives R131: (a) substitution and row shift commute, and so do their inverses; (b) both column transforms are linear;
(c) the inverses undo the row shift, the substitution (and R129 the mix); (d) all six transforms are bijections. -/
def Obligations.TransformFacts : Prop :=
  (∀ V, subBytes (shiftRows V) = shiftRows (subBytes V) ∧ invSubBytes (invShiftRows V) = invShiftRows (invSubBytes V)) ∧
  (∀ A B, invMixColumns (A ^^^ B) = invMixColumns A ^^^ invMixColumns B ∧
    mixColumns (A ^^^ B) = mixColumns A ^^^ mixColumns B) ∧
  (∀ V, invShiftRows (shiftRows V) = V ∧ invSubBytes (subBytes V) = V ∧ invMixColumns (mixColumns V) = V) ∧
  Function.Bijective subBytes ∧ Function.Bijective invSubBytes ∧ Function.Bijective shiftRows ∧
  Function.Bijective invShiftRows ∧ Function.Bijective mixColumns ∧ Function.Bijective invMixColumns

/-- Every data primitive answers a next state, for every operand, with its function of its operands in its destination and
nothing else done (40_primitives R140 to R148; no flag, no exception). -/
def Obligations.DataPrimitivesComplete : Prop :=
  ∀ (s : State) (d a b rk : Reg) (imm8 : Byte),
    exec (.pxor d a b) s = .next (s.writeReg d (s.readReg a ^^^ s.readReg b)) ∧
    exec (.pslldq4 d a) s = .next (s.writeReg d (s.readReg a <<< 32)) ∧
    exec (.pshufdFf d a) s = .next (s.writeReg d (ofDwords (fun _ => dwordOf (s.readReg a) 3))) ∧
    exec (.aeskeygenassist d a imm8) s = .next (s.writeReg d (assistOf (s.readReg a) imm8)) ∧
    exec (.aesimc d a) s = .next (s.writeReg d (invMixColumns (s.readReg a))) ∧
    exec (.aesenc d a rk) s =
      .next (s.writeReg d (mixColumns (subBytes (shiftRows (s.readReg a))) ^^^ s.readReg rk)) ∧
    exec (.aesenclast d a rk) s = .next (s.writeReg d (subBytes (shiftRows (s.readReg a)) ^^^ s.readReg rk)) ∧
    exec (.aesdec d a rk) s =
      .next (s.writeReg d (invMixColumns (invSubBytes (invShiftRows (s.readReg a))) ^^^ s.readReg rk)) ∧
    exec (.aesdeclast d a rk) s = .next (s.writeReg d (invSubBytes (invShiftRows (s.readReg a)) ^^^ s.readReg rk))

/-- The frame of the nine data primitives (40_primitives R140 to R148): when one answers a next state, its destination register
holds its value, every other 128-bit register is unchanged, and everything else (flags, control registers, sequencer, workers,
every byte of memory) is unchanged. -/
def Obligations.DataPrimitivesFrame : Prop :=
  ∀ (i : Instr) (s t : State) (d : Reg) (v : Block), s.MemOk → dataResult s i = some (d, v) → exec i s = .next t →
    t.readReg d = v ∧ (∀ r, r ≠ d → t.readReg r = s.readReg r) ∧ s.SameButRegs t ∧
    (∀ a, memByte t.mem a = memByte s.mem a)

/-- The shuffles dword by dword: 40_primitives R141 (`d.d[0] = 0`, `d.d[j] = a.d[j-1]`), R142 (dword 3 in all four), R140
(byte by byte). -/
def Obligations.ShufflesByDword : Prop :=
  ∀ (a b : Block),
    (∀ i, i < 16 → byteOf (pxorOf a b) i = byteOf a i ^^^ byteOf b i) ∧ pxorOf a a = 0 ∧ pxorOf a 0 = a ∧
    dwordOf (pslldq4Of a) 0 = 0 ∧ (∀ j, 1 ≤ j → j < 4 → dwordOf (pslldq4Of a) j = dwordOf a (j - 1)) ∧
    (∀ j, j < 4 → dwordOf (pshufdFfOf a) j = dwordOf a 3)

/-- 40_primitives R143: the four dwords of `AESKEYGENASSIST`, and its last four bytes
`(SBOX[k13] ^ imm8, SBOX[k14], SBOX[k15], SBOX[k12])`. -/
def Obligations.KeyGenAssistDwords : Prop :=
  ∀ (a : Block) (imm8 : Byte),
    dwordOf (assistOf a imm8) 0 = subWord (dwordOf a 1) ∧
    dwordOf (assistOf a imm8) 1 = rotWord (subWord (dwordOf a 1)) ^^^ imm8.setWidth 32 ∧
    dwordOf (assistOf a imm8) 2 = subWord (dwordOf a 3) ∧
    dwordOf (assistOf a imm8) 3 = rotWord (subWord (dwordOf a 3)) ^^^ imm8.setWidth 32 ∧
    byteOf (assistOf a imm8) 12 = sbox (byteOf a 13) ^^^ imm8 ∧
    byteOf (assistOf a imm8) 13 = sbox (byteOf a 14) ∧
    byteOf (assistOf a imm8) 14 = sbox (byteOf a 15) ∧
    byteOf (assistOf a imm8) 15 = sbox (byteOf a 12)

-- Block accesses (20_memory, 40_primitives R149, R150)

/-- 20_memory R65: a block access at `a` is admitted when `a + 15 < 2^AW` and `MEM_VALID(a + k)` holds for every `k = 0..15`. -/
def Obligations.AdmissionOfAccess : Prop :=
  ∀ (p : Platform) (a : Nat),
    admitted p a = true ↔ a + 15 < 2 ^ p.aw ∧ ∀ k, k < 16 → memValid p (a + k) = true

/-- `LDBLK` (40_primitives R149, 20_memory R62): an admitted load puts the byte at `addr + i` into byte `i` of `S[j]` and changes
nothing else, no byte of memory; one that is not admitted reads nothing and only puts worker `j` into `FAULT` (43_parallel R218). -/
def Obligations.LoadBlock : Prop :=
  ∀ (s : State) (j addr : Nat), s.MemOk →
    (admitted s.platform addr = true → ∃ t, exec (.ldblk j addr) s = .next t ∧
      (∀ i, i < 16 → byteOf (t.readS j) i = memByte s.mem (addr + i)) ∧
      (∀ r, r ≠ .s j → t.readReg r = s.readReg r) ∧ s.SameButRegs t ∧ (∀ a, memByte t.mem a = memByte s.mem a)) ∧
    (admitted s.platform addr = false → ∃ t, exec (.ldblk j addr) s = .next t ∧
      (∀ w, s.workers[j]? = some w → t.workers[j]? = some { w with wstat := .fault }) ∧
      (∀ j', j' ≠ j → t.workers[j']? = s.workers[j']?) ∧ { t with workers := s.workers } = s)

/-- `STBLK` (40_primitives R150, 20_memory R62): an admitted store puts byte `i` of `S[j]` at `addr + i`, leaves every other byte
of memory and every other piece of state; one that is not admitted writes nothing and only puts worker `j` into `FAULT`. -/
def Obligations.StoreBlock : Prop :=
  ∀ (s : State) (j addr : Nat), s.MemOk →
    (admitted s.platform addr = true → ∃ t, exec (.stblk addr j) s = .next t ∧
      (∀ i, i < 16 → memByte t.mem (addr + i) = byteOf (s.readS j) i) ∧
      (∀ a, a < addr ∨ addr + 16 ≤ a → memByte t.mem a = memByte s.mem a) ∧ { t with mem := s.mem } = s) ∧
    (admitted s.platform addr = false → ∃ t, exec (.stblk addr j) s = .next t ∧
      (∀ w, s.workers[j]? = some w → t.workers[j]? = some { w with wstat := .fault }) ∧
      (∀ j', j' ≠ j → t.workers[j']? = s.workers[j']?) ∧ { t with workers := s.workers } = s)

/-- Only `STBLK` writes buffer memory: no other instruction changes it (20_memory R60: the KeyScheduler, `ENCB`, `DECB`,
`CONSTRUCT` and `DESTROY` never access it; the stores of a call are its workers' `STBLK`). -/
def Obligations.OnlyStblkWritesMemory : Prop :=
  ∀ (i : Instr) (s t : State), (∀ addr j, i ≠ .stblk addr j) → exec i s = .next t → t.mem = s.mem

/-- Every step keeps memory and the worker registers in canonical form, from every state that has it. -/
def Obligations.StepKeepsMemoryForm : Prop :=
  ∀ (s t : State), s.MemOk → step s = .next t → t.MemOk

/-- The reset state satisfies every invariant stated here. -/
def Obligations.ResetMeetsInvariants : Prop :=
  State.reset.MemOk ∧ State.reset.StatusOk ∧ State.reset.AddressesOk ∧ State.reset.KeyStoreInv ∧ State.reset.Quiet ∧
  State.reset.WorkersOk

-- KeyScheduler (41_keyschedule)

/-- 41_keyschedule R173: one expansion step as a function of the dwords, `g` being dword 3 of the assisted key. -/
def Obligations.ExpansionStepByDword : Prop :=
  ∀ (k : Block) (rc : Byte),
    let g := dwordOf (assistOf k rc) 3
    g = rotWord (subWord (dwordOf k 3)) ^^^ rc.setWidth 32 ∧
    dwordOf (ksStep k rc) 0 = dwordOf k 0 ^^^ g ∧
    dwordOf (ksStep k rc) 1 = dwordOf k 0 ^^^ dwordOf k 1 ^^^ g ∧
    dwordOf (ksStep k rc) 2 = dwordOf k 0 ^^^ dwordOf k 1 ^^^ dwordOf k 2 ^^^ g ∧
    dwordOf (ksStep k rc) 3 = dwordOf k 0 ^^^ dwordOf k 1 ^^^ dwordOf k 2 ^^^ dwordOf k 3 ^^^ g

/-- 41_keyschedule R175: the schedule as 44 dwords `w[4i + j] = EKS[i].d[j]` satisfies the word recurrence. -/
def Obligations.ScheduleWordForm : Prop :=
  ∀ (key : Block),
    let w := fun n : Nat => dwordOf (roundKey (expandEnc key) (n / 4)) (n % 4)
    (∀ n, n < 4 → w n = dwordOf key n) ∧
    (∀ n, 4 ≤ n → n < 44 → n % 4 = 0 →
      w n = w (n - 4) ^^^ rotWord (subWord (w (n - 1))) ^^^ (rcon (n / 4)).setWidth 32) ∧
    (∀ n, 4 ≤ n → n < 44 → n % 4 ≠ 0 → w n = w (n - 4) ^^^ w (n - 1))

/-- 41_keyschedule R174: the decryption schedule has round keys 1 to 9 through the inverse mix-columns transform, and 0 and 10
copied; indices are not reversed. -/
def Obligations.DecryptionSchedule : Prop :=
  ∀ (E : Schedule), roundKey (expandDec E) 0 = roundKey E 0 ∧ roundKey (expandDec E) 10 = roundKey E 10 ∧
    ∀ i, 1 ≤ i → i ≤ 9 → roundKey (expandDec E) i = invMixColumns (roundKey E i)

/-- `CONSTRUCT` (44_facade R241, 41_keyschedule R171, R172, R174): from an `EMPTY` core with the hardware it takes the key and
leaves `EKS = expand_enc(KEYIN)`, `DKS = expand_dec(EKS)`, `KEYED = 1` and success; `K` and `T` hold some value (10_state R23) and
nothing else changes. That `K`, `T`, `U` are redrawn from free values is the model's choice (log 11). -/
def Obligations.ConstructExpandsTheKey : Prop :=
  ∀ (s : State), s.phase = .idle → s.keyed = false → s.platform.hwcap = true →
    ∃ (kv tv uv : Block) (n : Nat),
      exec .construct s = .next
        { s with
          key := s.keyin, eks := expandEnc s.keyin, dks := expandDec (expandEnc s.keyin)
          k := kv, t := tv, u := uv, freeCount := n
          status := (s.status ||| 1#32) &&& ~~~2#32, errcode := 0, errinfo := 0, phase := .idle, rnd := 0 }

/-- The two errors of `CONSTRUCT` (44_facade R241, 60_exceptions R271, R275), checked in this order: `IllegalState` on a keyed
core, `UnsupportedHardware` without the hardware; nothing but the error registers changes. -/
def Obligations.ConstructErrors : Prop :=
  (∀ (s : State), s.phase = .idle → s.keyed = true →
    exec .construct s =
      .next { s with errcode := 6, errinfo := 0, status := s.status ||| 2#32, phase := .idle, rnd := 0 }) ∧
  (∀ (s : State), s.phase = .idle → s.keyed = false → s.platform.hwcap = false →
    exec .construct s =
      .next { s with errcode := 1, errinfo := 0, status := s.status ||| 2#32, phase := .idle, rnd := 0 })

/-- 10_state R27: whenever `KEYED = 1`, `EKS = expand_enc(KEY)` and `DKS = expand_dec(EKS)`. With what stands between the steps of
a run (`SeqOk`), every step keeps it. -/
def Obligations.StepKeepsKeyStore : Prop :=
  ∀ (s t : State), s.KeyStoreInv → step s = .next t → t.KeyStoreInv

/-- 10_state R25, R26, R30: of the well-formed instructions only `CONSTRUCT` and `DESTROY`, issued as such or by a write of `CMD`,
change `KEY`, `EKS` or `KEYED`. -/
def Obligations.OnlyLifeCycleCommandsWriteKeys : Prop :=
  ∀ (i : Instr) (s t : State), i.wf s.platform.aw = true → exec i s = .next t →
    t.key ≠ s.key ∨ t.eks ≠ s.eks ∨ t.keyed ≠ s.keyed →
    i = .construct ∨ i = .destroy ∨
      ∃ v, i = .crwrite .cmd v ∧
        (decodeCommand (BitVec.ofNat 32 v) = .ok .construct ∨ decodeCommand (BitVec.ofNat 32 v) = .ok .destroy)

/-- 10_state R26, R25: no register read tells anything about the key store: two states that differ only in `KEY`, `EKS`, `DKS`
give the host the same response. -/
def Obligations.KeyStoreNotReadable : Prop :=
  ∀ (n : CR) (s : State) (key' : Block) (eks' dks' : Schedule), s.phase = .idle →
    ∃ t t', exec (.crread n) s = .next t ∧
      exec (.crread n) { s with key := key', eks := eks', dks := dks' } = .next t' ∧ t.resp = t'.resp

-- BlockCipherCore (42_blockcipher)

/-- 42_blockcipher R197: for every key and block the two transforms undo each other. -/
def Obligations.BlockRoundTrip : Prop :=
  ∀ (K B : Block),
    decryptBlock (encryptBlock B (expandEnc K)) (expandDec (expandEnc K)) = B ∧
    encryptBlock (decryptBlock B (expandDec (expandEnc K))) (expandEnc K) = B

/-- 42_blockcipher R198: for a fixed schedule, whatever it holds, both transforms are bijections of the blocks. -/
def Obligations.BlockTransformsBijective : Prop :=
  ∀ (E D : Schedule), Function.Bijective (fun B => encryptBlock B E) ∧ Function.Bijective (fun B => decryptBlock B D)

/-- 42_blockcipher R199: the document's known answer. -/
def Obligations.KnownAnswer : Prop :=
  let key := ofByteList [0x00, 0x01, 0x02, 0x03, 0x04, 0x05, 0x06, 0x07, 0x08, 0x09, 0x0a, 0x0b, 0x0c, 0x0d, 0x0e, 0x0f]
  let plain := ofByteList [0x00, 0x11, 0x22, 0x33, 0x44, 0x55, 0x66, 0x77, 0x88, 0x99, 0xaa, 0xbb, 0xcc, 0xdd, 0xee, 0xff]
  let cipher := ofByteList [0x69, 0xc4, 0xe0, 0xd8, 0x6a, 0x7b, 0x04, 0x30, 0xd8, 0xcd, 0xb7, 0x80, 0x70, 0xb4, 0xc5, 0x5a]
  encryptBlock plain (expandEnc key) = cipher ∧ decryptBlock cipher (expandDec (expandEnc key)) = plain

/-- `ENCB` and `DECB` (42_blockcipher R193, R196): on a keyed core `DOUT` becomes the transform of `DIN`, `S[0]` holds it too, and
the command ends with success; nothing else changes, no byte of memory. On an `EMPTY` core they end with `IllegalState` and `DOUT`
and `S[0]` are unchanged. `blkDir` is the model's own field (log 14). -/
def Obligations.BlockCommands : Prop :=
  ∀ (s : State) (i : Instr) (d : Dir), (i = .encb ∧ d = .enc ∨ i = .decb ∧ d = .dec) → s.phase = .idle → s.MemOk →
    (s.keyed = true → ∃ m, exec i s = .next
        { s with
          dout := s.blockOp d s.din, sreg := m, blkDir := d
          status := s.status &&& ~~~2#32, errcode := 0, errinfo := 0, phase := .idle, rnd := 0 } ∧
        sparseGet unwrittenS m 0 = s.blockOp d s.din ∧
        ∀ j, j ≠ 0 → sparseGet unwrittenS m j = s.readS j) ∧
    (s.keyed = false → exec i s =
      .next { s with errcode := 6, errinfo := 0, status := s.status ||| 2#32, phase := .idle, rnd := 0 })

-- Cipher Facade: DESTROY and register access (44_facade)

/-- `DESTROY` (44_facade R251): always succeeds, clears `KEYED` and the error registers; the key store holds some value
afterwards and nothing else changes. That the value is redrawn from free values is the model's choice (log 12). -/
def Obligations.DestroyEndsTheInstance : Prop :=
  ∀ (s : State), s.phase = .idle → ∃ (kv : Block) (ev dv : Schedule) (n : Nat),
    exec .destroy s = .next
      { s with
        key := kv, eks := ev, dks := dv, freeCount := n
        status := s.status &&& ~~~1#32 &&& ~~~2#32, errcode := 0, errinfo := 0, phase := .idle, rnd := 0 }

/-- `CRREAD` (44_facade R253, 10_state R28): the response is the register's value at its full width, 0 for `CMD`, and no state of
the core changes. The response port is the model's own field (log 15). -/
def Obligations.ReadControlRegister : Prop :=
  ∀ (s : State) (n : CR), s.phase = .idle →
    exec (.crread n) s = .next { s with resp := some (.register n (match n with
      | .cmd => 0
      | .status => s.status.toNat
      | .errcode => s.errcode.toNat
      | .errinfo => s.errinfo.toNat
      | .src => s.src
      | .dst => s.dst
      | .len => s.len
      | .workers => s.hint.toNat
      | .keyin => s.keyin.toNat
      | .din => s.din.toNat
      | .dout => s.dout.toNat)) }

/-- `CRWRITE` (44_facade R254, 10_state R28): registers 4 to 9 take the value, 1, 2, 3 and 10 ignore it, and nothing else
changes. A write of `CMD` issues a command (`CommandWriteRunsCommand`, `IllegalCommandWord`). -/
def Obligations.WriteControlRegister : Prop :=
  ∀ (s : State) (v : Nat), s.phase = .idle →
    (v < 2 ^ s.platform.aw → exec (.crwrite .src v) s = .next { s with src := v } ∧
      exec (.crwrite .dst v) s = .next { s with dst := v } ∧ exec (.crwrite .len v) s = .next { s with len := v }) ∧
    exec (.crwrite .workers v) s = .next { s with hint := BitVec.ofNat 32 v } ∧
    exec (.crwrite .keyin v) s = .next { s with keyin := BitVec.ofNat 128 v } ∧
    exec (.crwrite .din v) s = .next { s with din := BitVec.ofNat 128 v } ∧
    exec (.crwrite .status v) s = .next s ∧ exec (.crwrite .errcode v) s = .next s ∧
    exec (.crwrite .errinfo v) s = .next s ∧ exec (.crwrite .dout v) s = .next s

/-- 10_state R32, R21, R22: commands never change `SRC`, `DST`, `LEN`, `WORKERS`, `KEYIN`, `DIN`; nor does any step outside `IDLE`
but a reset. -/
def Obligations.CommandsKeepHostRegisters : Prop :=
  (∀ (i : Instr) (s t : State), isCommand i = true → exec i s = .next t → s.HostRegsEq t) ∧
  (∀ (s t : State), s.SeqOk → s.phase ≠ .idle →
    (s.phase = .run → s.useq = [] → s.sched.head? ≠ some .reset) → step s = .next t → s.HostRegsEq t)

-- Errors and life cycle (60_exceptions)

/-- 10_state R30, R31, 60_exceptions R270: the outcome registers agree with each other after every step: reserved bits read 0,
`ERR` is `ERRCODE != 0`, the code is 0 to 6 but never 4, `ERRINFO` is 0 unless the code is `WorkerFailure`. -/
def Obligations.StepKeepsOutcomeRegisters : Prop :=
  ∀ (s t : State), s.StatusOk → step s = .next t → t.StatusOk

/-- 10_state R32: `SRC`, `DST`, `LEN` stay AW-bit values; 00_scope R9, 60_exceptions R287: the parameters, `HWCAP` among them,
never change during a run. -/
def Obligations.StepKeepsWidthsAndPlatform : Prop :=
  (∀ (s t : State), s.AddressesOk → step s = .next t → t.AddressesOk) ∧
  (∀ (s t : State), step s = .next t → t.platform = s.platform)

/-- The errors of `ENCRYPT` and `DECRYPT` before a worker exists, in the order of 60_exceptions R279 (44_facade R244, R245, R247):
`IllegalState` on an `EMPTY` core, then `InvalidLength` under the policy FAIL, each changing nothing but the error registers; then
the refusal of a partially overlapping call (20_memory R67). -/
def Obligations.CallErrorsInOrder : Prop :=
  ∀ (s : State) (d : Dir), s.phase = .idle →
    (s.keyed = false → exec (callInstr d) s =
      .next { s with errcode := 6, errinfo := 0, status := s.status ||| 2#32, phase := .idle, rnd := 0 }) ∧
    (s.keyed = true → s.len % 16 ≠ 0 → s.platform.lenPolicy = .fail → exec (callInstr d) s =
      .next { s with errcode := 2, errinfo := 0, status := s.status ||| 2#32, phase := .idle, rnd := 0 }) ∧
    (s.keyed = true → (s.len % 16 = 0 ∨ s.platform.lenPolicy = .truncate) →
      16 * (s.len / 16) ≠ 0 → s.src ≠ s.dst → s.src < s.dst + 16 * (s.len / 16) → s.dst < s.src + 16 * (s.len / 16) →
      exec (callInstr d) s = .refused .partialOverlap)

-- ParallelExecutor (43_parallel)

/-- 43_parallel R211: the clamp and what it gives at the boundaries. -/
def Obligations.WorkerCountClamp : Prop :=
  ∀ (hint nblk : Nat),
    clampWorkers hint nblk = max 1 (min hint nblk) ∧
    (1 ≤ nblk → nblk < hint → clampWorkers hint nblk = nblk) ∧ clampWorkers 0 nblk = 1 ∧ clampWorkers hint 0 = 1 ∧
    (1 ≤ nblk → clampWorkers hint nblk ≤ nblk) ∧ 1 ≤ clampWorkers hint nblk

/-- 43_parallel R213: the ranges are contiguous in increasing index order, the first `extra` workers have `base + 1` blocks and
the others `base`, they cover `[0, nblk)` exactly once, and every worker has a block when there is one. -/
def Obligations.RangesPartitionTheBlocks : Prop :=
  ∀ (hint nblk : Nat),
    let W := clampWorkers hint nblk
    let lo := rangeLo (nblk / W) (nblk % W)
    lo 0 = 0 ∧ lo W = nblk ∧
    (∀ j, j < W → lo (j + 1) = lo j + (if j < nblk % W then nblk / W + 1 else nblk / W)) ∧
    (∀ i, i < nblk → ∃ j, (j < W ∧ lo j ≤ i ∧ i < lo (j + 1)) ∧
      ∀ j', j' < W ∧ lo j' ≤ i ∧ i < lo (j' + 1) → j' = j) ∧
    (1 ≤ nblk → ∀ j, j < W → lo j < lo (j + 1))

/-- `ENCRYPT` and `DECRYPT` reach their workers (44_facade R244, R245, 43_parallel R214): a keyed core with a length the policy
takes and a defined call answers the state of the dispatched call, nothing else changed. The steps from there to the end are
`CallTransformsTheBuffer` and `CallReportsWorkerFailure`. `stage` is the model's own field (log 8). -/
def Obligations.CallDispatchesItsWorkers : Prop :=
  ∀ (s : State) (d : Dir), s.phase = .idle → s.keyed = true → s.badLength = false →
    callDefined s.src s.dst (16 * s.callBlocks) = true →
    exec (callInstr d) s = .next
      { s with
        dir := d, nblk := s.callBlocks, wcount := s.callW
        base := s.callBlocks / s.callW, extra := s.callBlocks % s.callW
        workers := (List.range s.callW).map (fun j =>
          { lo := s.callLo j, hi := s.callLo (j + 1), cur := s.callLo j, wrnd := 0,
            wstat := if s.callLo j < s.callLo (j + 1) then .run else .done, stage := .load })
        phase := .run, rnd := 0 }

/-- 43_parallel R221, R223, R225, R73: a legal call whose every block is admitted and that no reset interrupts ends, under every
interleaving (`sched` is any list of workers), with success; destination block `i` is the transform of source block `i` of the memory at the issue, every byte outside
the destination range is as it was, and the registers are unchanged. The bound counts the model's own steps (log 8). -/
def Obligations.CallTransformsTheBuffer : Prop :=
  ∀ (s : State) (d : Dir), s.CallLegal → s.NoReset → (∀ i, i < s.callBlocks → s.blockAdmitted i = true) →
    ∃ t n u, exec (callInstr d) s = .next t ∧ n ≤ 39 * s.callBlocks + 3 ∧ Host.Core.run Sys2Proof.core n t = .next u ∧
      u.Quiet ∧ u.MemOk ∧ u.errcode = 0 ∧ u.errinfo = 0 ∧ u.err = false ∧ u.workers = [] ∧ s.CallFrame u ∧
      (∀ i, i < s.callBlocks →
        memRead u.mem (s.dst + 16 * i) = s.blockOp d (memRead s.mem (s.src + 16 * i))) ∧
      (∀ a, a < s.dst ∨ s.dst + 16 * s.callBlocks ≤ a → memByte u.mem a = memByte s.mem a)

/-- 43_parallel R218, R219, R220, R225: a legal call in which some block is not admitted and that no reset interrupts ends, under
every interleaving, with
`WorkerFailure` naming the lowest worker that met one; exactly the blocks R220 names are written, each with its transformed source
block, and every other byte of memory is as it was. -/
def Obligations.CallReportsWorkerFailure : Prop :=
  ∀ (s : State) (d : Dir) (f : Nat), s.CallLegal → s.NoReset → f < s.callW → s.workerFaults f → (∀ j, j < f → ¬ s.workerFaults j) →
    ∃ t n u, exec (callInstr d) s = .next t ∧ n ≤ 39 * s.callBlocks + 3 ∧ Host.Core.run Sys2Proof.core n t = .next u ∧
      u.Quiet ∧ u.MemOk ∧ u.errcode = 3 ∧ u.errinfo = BitVec.ofNat 32 f ∧ u.err = true ∧ u.workers = [] ∧ s.CallFrame u ∧
      (∀ i, i < s.callBlocks → s.blockWritten i →
        memRead u.mem (s.dst + 16 * i) = s.blockOp d (memRead s.mem (s.src + 16 * i))) ∧
      (∀ a, (∀ i, i < s.callBlocks → s.blockWritten i → a < s.dst + 16 * i ∨ s.dst + 16 * i + 16 ≤ a) →
        memByte u.mem a = memByte s.mem a)

/-- 43_parallel R222: parallelism is never an observable semantic. Two states that differ only in the worker hint and in the
interleaving end a legal, admitted call with the same memory. -/
def Obligations.WorkerCountAndInterleavingInvisible : Prop :=
  ∀ (s : State) (d : Dir) (hint' : Word) (sched' : List Choice), s.CallLegal → s.NoReset →
    (∀ c ∈ sched', c ≠ .reset) → (∀ i, i < s.callBlocks → s.blockAdmitted i = true) →
    ∃ t n u t' n' u', exec (callInstr d) s = .next t ∧ Host.Core.run Sys2Proof.core n t = .next u ∧ u.Quiet ∧
      exec (callInstr d) { s with hint := hint', sched := sched' } = .next t' ∧
      Host.Core.run Sys2Proof.core n' t' = .next u' ∧ u'.Quiet ∧ u.errcode = 0 ∧ u'.errcode = 0 ∧ u.mem = u'.mem

/-- 44_facade R248: `ENCRYPT` from buffer `A` to `B`, then `DECRYPT` from `B` to `C`, with any two worker hints, leaves `C` equal
to `A` byte for byte. The host moves `SRC`, `DST` and `WORKERS` in between; `A` is taken as it was before the first call. -/
def Obligations.BufferRoundTrip : Prop :=
  ∀ (s : State) (c : Nat) (hint' : Word), s.CallLegal → s.NoReset → s.KeyStoreInv → s.len % 16 = 0 →
    (∀ i, i < s.callBlocks → s.blockAdmitted i = true) →
    callDefined s.dst c s.len = true →
    (∀ i, i < s.callBlocks → admitted s.platform (c + 16 * i) = true) →
    ∃ t n u t' n' u', exec (.encrypt .ecb) s = .next t ∧ Host.Core.run Sys2Proof.core n t = .next u ∧ u.Quiet ∧
      exec (.decrypt .ecb) { u with src := s.dst, dst := c, hint := hint' } = .next t' ∧
      Host.Core.run Sys2Proof.core n' t' = .next u' ∧ u'.Quiet ∧ u'.errcode = 0 ∧
      ∀ k, k < s.len → memByte u'.mem (c + k) = memByte s.mem (s.src + k)

/-- 43_parallel R224: while the workers run, one step changes buffer memory only by the store of the worker whose row is in hand,
inside that worker's own destination range. Only a step with no row in hand can be a reset. That a running worker has
`lo <= cur < hi` is `StepKeepsWorkerBookkeeping`. -/
def Obligations.WorkerWritesItsOwnRange : Prop :=
  ∀ (s t : State) (j : Nat) (w : Worker) (ops : List MicroOp), s.phase = .run → s.MemOk → s.workers[j]? = some w →
    w.lo ≤ w.cur → w.cur < w.hi → (s.useq = [] → s.sched.head? ≠ some .reset) →
    (s.useq = [] ∨ s.useq = workerRow s j ∨ s.useq = ops ∧ ∃ op, workerRow s j = op :: ops) →
    step s = .next t →
    ∀ a, a < s.dst + 16 * w.lo ∨ s.dst + 16 * w.hi ≤ a → memByte t.mem a = memByte s.mem a

/-- 43_parallel R219, 60_exceptions R278: the join. Without a faulted worker the command ends with success; otherwise with
`WorkerFailure` and the lowest faulted index. Nothing but the outcome, `seq`, the work assignment and the ended workers' `S[j]`
changes. -/
def Obligations.JoinReportsFirstFault : Prop :=
  ∀ (s t : State), s.phase = .join → s.useq = [.join] → step s = .next t →
    t.Quiet ∧ t.workers = [] ∧ t.mem = s.mem ∧ s.CallFrame t ∧ (∀ j, s.workers.length ≤ j → t.readS j = s.readS j) ∧
    ((∀ w ∈ s.workers, w.wstat ≠ .fault) → t.errcode = 0 ∧ t.errinfo = 0 ∧ t.err = false) ∧
    (∀ f w, s.workers[f]? = some w → w.wstat = .fault →
      (∀ j w', j < f → s.workers[j]? = some w' → w'.wstat ≠ .fault) →
      t.errcode = 3 ∧ t.errinfo = BitVec.ofNat 32 f ∧ t.err = true)

/-- 60_exceptions R288: no state of a worker survives the call. Two joins whose workers ended alike, worker by worker, leave the
same state, whatever the workers' `S[j]`, their ranges and rounds, and the dispatcher's registers held. The dispatcher's registers
(10_state R44) and the worker registers are set aside in the first clause; the second says that no ended worker's `S[j]` survives:
what it holds after the join does not depend on what it held before. That both joins put the same value there is the model's
choice and no rule: the registers are redrawn from free values (log 13) and two joins that have drawn equally often draw alike
(log 26). -/
def Obligations.NoWorkerStateSurvives : Prop :=
  ∀ (s t : State) (m : List (Nat × Block)) (ws : List Worker) (d : Dir) (nblk wcount base extra : Nat),
    s.phase = .join → s.useq = [.join] → ws.map (fun w => w.wstat) = s.workers.map (fun w => w.wstat) → step s = .next t →
    ∃ t', step { s with
        sreg := m, workers := ws, dir := d, nblk := nblk, wcount := wcount, base := base, extra := extra } = .next t' ∧
      { t' with sreg := t.sreg, dir := t.dir, nblk := t.nblk, wcount := t.wcount, base := t.base, extra := t.extra } = t ∧
      (s.MemOk → sparseWf unwrittenS m = true → ∀ j, j < s.workers.length → t'.readS j = t.readS j)

-- The host and buffer memory (70_reset R317)

/-- 70_reset R317, 20_memory R72, R73: between commands the host writes bytes, and no other byte and nothing else changes; and it
reads bytes, which changes nothing but its response. That a byte the platform does not have faults is the model's choice
(logs 20, 29), and so is the response port (log 15). -/
def Obligations.HostWritesAndReadsMemory : Prop :=
  (∀ (s : State) (a : Nat) (bs : List Byte) (q : List HostEvent), s.Quiet → s.MemOk → s.hostq = .store a bs :: q →
    ((∀ i, i < bs.length → memValid s.platform (a + i) = true) →
      ∃ m, step s = .next { s with hostq := q, mem := m } ∧ memWf m = true ∧
        (∀ i (h : i < bs.length), memByte m (a + i) = bs[i]) ∧
        ∀ b, b < a ∨ a + bs.length ≤ b → memByte m b = memByte s.mem b) ∧
    ((∃ i, i < bs.length ∧ memValid s.platform (a + i) = false) → step s = .fault (.hostStoreAbsent a))) ∧
  (∀ (s : State) (a n : Nat) (q : List HostEvent), s.Quiet → s.hostq = .load a n :: q →
    ((∀ i, i < n → memValid s.platform (a + i) = true) →
      ∃ bs : List Byte, step s = .next { s with hostq := q, resp := some (.memory a bs) } ∧ bs.length = n ∧
        ∀ i (h : i < bs.length), bs[i] = memByte s.mem (a + i)) ∧
    ((∃ i, i < n ∧ memValid s.platform (a + i) = false) → step s = .fault (.hostLoadAbsent a)))

/-- 20_memory R73, 70_reset R317: a host that reads the destination buffer after the call has returned sees every store of the
call: its response is the transformed source, block by block. -/
def Obligations.HostReadsTheResultOfACall : Prop :=
  ∀ (s : State) (d : Dir) (q : List HostEvent), s.CallLegal → s.NoReset →
    (∀ i, i < s.callBlocks → s.blockAdmitted i = true) → s.hostq = .load s.dst (16 * s.callBlocks) :: q →
    ∃ t n u v bs, exec (callInstr d) s = .next t ∧ Host.Core.run Sys2Proof.core n t = .next u ∧ u.Quiet ∧ u.errcode = 0 ∧
      step u = .next v ∧ v.hostq = q ∧ v.mem = u.mem ∧ v.resp = some (.memory s.dst bs) ∧ bs.length = 16 * s.callBlocks ∧
      ∀ i k, i < s.callBlocks → k < 16 →
        bs[16 * i + k]? = some (byteOf (s.blockOp d (memRead s.mem (s.src + 16 * i))) k)

-- Reset (70_reset)

/-- 10_state R48, 70_reset R300: the values reset gives. `State.reset` has them, and the reset event has them from every state,
leaves buffer memory and the parameters alone, and leaves no worker and nothing in hand. A reset while the workers run (R301) has
them too and leaves every byte outside the destination alone; that it comes from the scheduler's list is the model's choice
(log 19). That the other registers of
`State.reset` are 0 is the model's choice (log 3) and stated nowhere. -/
def Obligations.ResetValues : Prop :=
  let good := fun s : State => s.status = 0 ∧ s.errcode = 0 ∧ s.errinfo = 0 ∧ s.src = 0 ∧ s.dst = 0 ∧ s.len = 0 ∧ s.hint = 0 ∧
    s.phase = .idle ∧ s.rnd = 0 ∧ s.workers = []
  good State.reset ∧
  (∀ (s : State) (q : List HostEvent), s.Quiet → s.hostq = .reset :: q →
    ∃ t, step s = .next t ∧ good t ∧ t.useq = [] ∧ t.mem = s.mem ∧ t.platform = s.platform ∧ t.hostq = q) ∧
  (∀ (s : State), s.phase = .run → s.useq = [] → s.sched.head? = some .reset →
    ∃ t, step s = .next t ∧ good t ∧ t.useq = [] ∧ t.platform = s.platform ∧ t.hostq = s.hostq ∧
      ∀ a, a < s.dst ∨ s.dst + 16 * s.nblk ≤ a → memByte t.mem a = memByte s.mem a)

-- The workers' bookkeeping (10_state R45)

/-- 10_state R45, R41, 43_parallel R213, R217: every step keeps `lo[j] <= cur[j] <= hi[j]` and `wrnd[j] <= 10`, a worker in `RUN`
has a block to do and one in `DONE` has none, and the ranges stay those of R213, which end at `nblk`. -/
def Obligations.StepKeepsWorkerBookkeeping : Prop :=
  ∀ (s t : State), s.WorkersOk → step s = .next t → t.WorkersOk
end

