-- ==== Sys2Proof/Laws/Bits.lean ====
section
/-! SUPPORT. Laws of the views of 128-bit values: a value is its 16 bytes, and its 4 dwords. -/

namespace Sys2Proof.Laws

theorem byteOf_ofBytes (f : Nat → Byte) (i : Nat) (h : i < 16) : byteOf (ofBytes f) i = f i := by
  have all : ∀ i : Fin 16, byteOf (ofBytes f) i = f i := by
    intro i
    fin_cases i <;>
      (unfold byteOf ofBytes
       apply BitVec.eq_of_getLsbD_eq
       intro k hk
       simp only [BitVec.getLsbD_extractLsb', BitVec.getLsbD_append]
       have : k = 0 ∨ k = 1 ∨ k = 2 ∨ k = 3 ∨ k = 4 ∨ k = 5 ∨ k = 6 ∨ k = 7 := by omega
       rcases this with h | h | h | h | h | h | h | h <;> subst h <;> simp)
  exact all ⟨i, h⟩

/-- Two blocks with the same 16 bytes are equal. -/
theorem block_ext {A B : Block} (h : ∀ i, i < 16 → byteOf A i = byteOf B i) : A = B := by
  apply BitVec.eq_of_getLsbD_eq
  intro k hk
  have := congrArg (fun b => BitVec.getLsbD b (k % 8)) (h (k / 8) (by omega))
  simp only [byteOf, BitVec.getLsbD_extractLsb'] at this
  have e : 8 * (k / 8) + k % 8 = k := Nat.div_add_mod k 8
  have l : k % 8 < 8 := by omega
  simpa [e, l] using this

theorem byteOf_xor (A B : Block) (i : Nat) : byteOf (A ^^^ B) i = byteOf A i ^^^ byteOf B i := by
  apply BitVec.eq_of_getLsbD_eq
  intro k hk
  simp [byteOf, hk]

theorem ofBytes_congr {f g : Nat → Byte} (h : ∀ i, i < 16 → f i = g i) : ofBytes f = ofBytes g :=
  block_ext fun i hi => by rw [byteOf_ofBytes f i hi, byteOf_ofBytes g i hi, h i hi]

@[simp] theorem ofBytes_byteOf (V : Block) : ofBytes (byteOf V) = V :=
  block_ext fun i hi => byteOf_ofBytes _ i hi

theorem dwordOf_ofDwords (f : Nat → Word) (j : Nat) (h : j < 4) : dwordOf (ofDwords f) j = f j := by
  have all : ∀ j : Fin 4, dwordOf (ofDwords f) j = f j := by
    intro j
    fin_cases j <;>
      (unfold dwordOf ofDwords
       apply BitVec.eq_of_getLsbD_eq
       intro k hk
       simp only [BitVec.getLsbD_extractLsb', BitVec.getLsbD_append, hk]
       simp
       try grind)
  exact all ⟨j, h⟩

theorem dwordOf_xor (A B : Block) (j : Nat) : dwordOf (A ^^^ B) j = dwordOf A j ^^^ dwordOf B j := by
  apply BitVec.eq_of_getLsbD_eq
  intro k hk
  simp [dwordOf, hk]

/-- Byte `i` of dword `j` is byte `4j + i` of the block (00_scope R11). -/
theorem dwordByte_dwordOf (V : Block) (j i : Nat) (h : i < 4) : dwordByte (dwordOf V j) i = byteOf V (4 * j + i) := by
  apply BitVec.eq_of_getLsbD_eq
  intro k hk
  have e : 32 * j + (8 * i + k) = 8 * (4 * j + i) + k := by omega
  simp only [dwordByte, dwordOf, byteOf, BitVec.getLsbD_extractLsb', e]
  simp [hk]; intro; omega

/-- Two dwords with the same 4 bytes are equal. -/
theorem dword_ext {a b : Word} (h : ∀ i, i < 4 → dwordByte a i = dwordByte b i) : a = b := by
  apply BitVec.eq_of_getLsbD_eq
  intro k hk
  have := congrArg (fun b => BitVec.getLsbD b (k % 8)) (h (k / 8) (by omega))
  simp only [dwordByte, BitVec.getLsbD_extractLsb'] at this
  have e : 8 * (k / 8) + k % 8 = k := Nat.div_add_mod k 8
  have l : k % 8 < 8 := by omega
  simpa [e, l] using this

theorem dwordByte_dwordOfBytes (b0 b1 b2 b3 : Byte) :
    dwordByte (dwordOfBytes b0 b1 b2 b3) 0 = b0 ∧ dwordByte (dwordOfBytes b0 b1 b2 b3) 1 = b1 ∧
    dwordByte (dwordOfBytes b0 b1 b2 b3) 2 = b2 ∧ dwordByte (dwordOfBytes b0 b1 b2 b3) 3 = b3 := by
  refine ⟨?_, ?_, ?_, ?_⟩ <;>
    (unfold dwordByte dwordOfBytes
     apply BitVec.eq_of_getLsbD_eq
     intro k hk
     simp only [BitVec.getLsbD_extractLsb', BitVec.getLsbD_append, hk]
     simp
     try grind)

end Sys2Proof.Laws
end

