-- ==== Sys2Proof/Laws/Decode.lean ====
section
/-! SUPPORT. What the decoders can answer: one lemma for command words, one for register accesses, one for primitive words, and
that an issued primitive decodes to itself. -/

namespace Sys2Proof.Laws

/-- Every way a command word decodes (30_encoding R91, R92, R97). -/
theorem decodeCommand_cases (w : BitVec 32) :
    (decodeCommand w = .error (.illegalCommand w) ∧
      (¬ (1 ≤ (w.extractLsb' 0 8).toNat ∧ (w.extractLsb' 0 8).toNat ≤ 6) ∨ w.extractLsb' 16 16 ≠ 0 ∨ w.extractLsb' 8 8 ≠ 0)) ∨
    (w.extractLsb' 16 16 = 0 ∧ w.extractLsb' 8 8 = 0 ∧
      (w.extractLsb' 0 8 = 1 ∧ decodeCommand w = .ok .construct ∨
       w.extractLsb' 0 8 = 2 ∧ decodeCommand w = .ok (.encrypt .ecb) ∨
       w.extractLsb' 0 8 = 3 ∧ decodeCommand w = .ok (.decrypt .ecb) ∨
       w.extractLsb' 0 8 = 4 ∧ decodeCommand w = .ok .encb ∨
       w.extractLsb' 0 8 = 5 ∧ decodeCommand w = .ok .decb ∨
       w.extractLsb' 0 8 = 6 ∧ decodeCommand w = .ok .destroy)) := by
  unfold decodeCommand Mode.ofCode
  simp only
  generalize w.extractLsb' 0 8 = op
  generalize w.extractLsb' 8 8 = m
  generalize w.extractLsb' 16 16 = r
  by_cases hr : r = 0
  swap
  · left; exact ⟨if_pos hr, .inr (.inl hr)⟩
  by_cases hm : m = 0
  swap
  · have hm' : ¬ m = 0x00#8 := hm
    left
    refine ⟨?_, .inr (.inr hm)⟩
    simp only [hr, hm', hm, if_false, not_true, not_false_eq_true, if_true, ne_eq]
    repeat' split
    all_goals rfl
  subst hr hm
  by_cases h1 : op = 1
  · subst h1; right; simp
  by_cases h2 : op = 2
  · subst h2; right; simp
  by_cases h3 : op = 3
  · subst h3; right; simp
  by_cases h4 : op = 4
  · subst h4; right; simp
  by_cases h5 : op = 5
  · subst h5; right; simp
  by_cases h6 : op = 6
  · subst h6; right; simp
  left
  refine ⟨?_, .inl ?_⟩
  · simp only [ne_eq, not_true, if_false]
    rw [if_neg (show ¬ op = 0x02#8 from h2), if_neg (show ¬ op = 0x03#8 from h3), if_neg (show ¬ op = 0x01#8 from h1),
      if_neg (show ¬ op = 0x04#8 from h4), if_neg (show ¬ op = 0x05#8 from h5), if_neg (show ¬ op = 0x06#8 from h6)]
  · bv_omega

/-- A register number in range names the register with that number (10_state R28). -/
theorem CR_ofNum_some {n : Nat} {r : CR} (h : CR.ofNum n = some r) : r.num.toNat = n := by
  unfold CR.ofNum at h
  split at h <;> first | (cases h; rfl) | cases h

/-- Numbers 11 to 15 name none (30_encoding R98). -/
theorem CR_ofNum_reserved {n : Nat} (h : 11 ≤ n) : CR.ofNum n = none := by
  match n, h with
  | n + 11, _ => rfl

/-- What an accepted register access is: a read with no payload, or a write whose payload fits (30_encoding R94). -/
theorem decodeAccess_ok {aw : Nat} {h : BitVec 5} {p : Nat} {i : Instr} (hd : decodeAccess aw h p = .ok i) :
    ∃ r : CR, r.num = h.extractLsb' 0 4 ∧
      (h.extractLsb' 4 1 = 1 ∧ p < 2 ^ r.width aw ∧ i = .crwrite r p ∨ h.extractLsb' 4 1 = 0 ∧ p = 0 ∧ i = .crread r) := by
  unfold decodeAccess at hd
  simp only at hd
  split at hd
  · cases hd
  · rename_i r hr
    refine ⟨r, BitVec.eq_of_toNat_eq (CR_ofNum_some hr), ?_⟩
    split at hd
    · rename_i hw
      split at hd <;> cases hd
      exact .inl ⟨hw, ‹_›, rfl⟩
    · rename_i hw
      split at hd <;> cases hd
      refine .inr ⟨?_, ‹_›, rfl⟩
      revert hw
      generalize h.extractLsb' 4 1 = x
      revert x
      decide

/-- A primitive word that is accepted decodes to a well-formed primitive with the operands its routing names. -/
theorem decodePrim_ok {w : BitVec 12} {r : Route} {i : Instr} (hd : decodePrim w r = .ok i) :
    selectPrim w r = some i ∧ i.wf 0 = true := by
  unfold decodePrim at hd
  split at hd
  · cases hd
  · split at hd <;> cases hd
    exact ⟨‹_›, ‹_›⟩

theorem ite_some {α : Type} {c : Prop} [Decidable c] {a i : α} {x : Option α} (h : (if c then some a else x) = some i) :
    c ∧ i = a ∨ ¬ c ∧ x = some i := by
  by_cases hc : c
  · rw [if_pos hc] at h; exact .inl ⟨hc, (Option.some.inj h).symm⟩
  · rw [if_neg hc] at h; exact .inr ⟨hc, h⟩

/-- Every function a primitive word selects (30_encoding R95). -/
theorem selectPrim_cases {w : BitVec 12} {r : Route} {i : Instr} (h : selectPrim w r = some i) :
    w.extractLsb' 0 4 = 0x3 ∧ i = .aeskeygenassist r.d r.a (w.extractLsb' 4 8) ∨
    w.extractLsb' 4 8 = 0 ∧
      (w.extractLsb' 0 4 = 0x0 ∧ i = .pxor r.d r.a r.b ∨ w.extractLsb' 0 4 = 0x1 ∧ i = .pslldq4 r.d r.a ∨
       w.extractLsb' 0 4 = 0x2 ∧ i = .pshufdFf r.d r.a ∨ w.extractLsb' 0 4 = 0x4 ∧ i = .aesimc r.d r.a ∨
       w.extractLsb' 0 4 = 0x5 ∧ i = .aesenc r.d r.a r.b ∨ w.extractLsb' 0 4 = 0x6 ∧ i = .aesenclast r.d r.a r.b ∨
       w.extractLsb' 0 4 = 0x7 ∧ i = .aesdec r.d r.a r.b ∨ w.extractLsb' 0 4 = 0x8 ∧ i = .aesdeclast r.d r.a r.b ∨
       w.extractLsb' 0 4 = 0x9 ∧ i = .ldblk r.j r.addr ∨ w.extractLsb' 0 4 = 0xA ∧ i = .stblk r.addr r.j) := by
  unfold selectPrim at h
  simp only at h
  rcases ite_some h with h | ⟨-, h⟩
  · exact .inl h
  refine .inr ?_
  by_cases hm : w.extractLsb' 4 8 = 0
  swap
  · rw [if_pos hm] at h; cases h
  refine ⟨hm, ?_⟩
  rw [if_neg (not_not.mpr hm)] at h
  rcases ite_some h with h | ⟨-, h⟩
  · exact .inl h
  rcases ite_some h with h | ⟨-, h⟩
  · exact .inr (.inl h)
  rcases ite_some h with h | ⟨-, h⟩
  · exact .inr (.inr (.inl h))
  rcases ite_some h with h | ⟨-, h⟩
  · exact .inr (.inr (.inr (.inl h)))
  rcases ite_some h with h | ⟨-, h⟩
  · exact .inr (.inr (.inr (.inr (.inl h))))
  rcases ite_some h with h | ⟨-, h⟩
  · exact .inr (.inr (.inr (.inr (.inr (.inl h)))))
  rcases ite_some h with h | ⟨-, h⟩
  · exact .inr (.inr (.inr (.inr (.inr (.inr (.inl h))))))
  rcases ite_some h with h | ⟨-, h⟩
  · exact .inr (.inr (.inr (.inr (.inr (.inr (.inr (.inl h)))))))
  rcases ite_some h with h | ⟨-, h⟩
  · exact .inr (.inr (.inr (.inr (.inr (.inr (.inr (.inr (.inl h))))))))
  rcases ite_some h with h | ⟨-, h⟩
  · exact .inr (.inr (.inr (.inr (.inr (.inr (.inr (.inr (.inr h))))))))
  · cases h

end Sys2Proof.Laws
end

