-- ==== Sys2Proof/Laws/Sparse.lean ====
section
/-! SUPPORT. Laws of sparse maps in canonical form: a read after a write, the form is kept, and equal maps are equal lists. -/

namespace Sys2Proof.Laws

open Sys2Proof.Machine

variable {α : Type} [DecidableEq α] {d : α} {m : List (Nat × α)} {a b lo : Nat} {v w : α}

theorem sparseFrom_weaken (h : sparseFrom d b m = true) (hle : a ≤ b) : sparseFrom d a m = true := by
  cases m with
  | nil => rfl
  | cons c m =>
    simp only [sparseFrom, Bool.and_eq_true, decide_eq_true_eq] at h ⊢
    exact ⟨⟨by omega, h.1.2⟩, h.2⟩

/-- A key below every listed one reads as the default. -/
theorem sparseGet_below (h : sparseFrom d lo m = true) (hlt : a < lo) : sparseGet d m a = d := by
  induction m generalizing lo with
  | nil => rfl
  | cons c m ih =>
    simp only [sparseFrom, Bool.and_eq_true, decide_eq_true_eq] at h
    simp only [sparseGet]
    rw [if_neg (by omega)]
    exact ih h.2 (by omega)

theorem sparseFrom_put (h : sparseFrom d lo m = true) (hle : lo ≤ a) : sparseFrom d lo (sparsePut d m a v) = true := by
  induction m generalizing lo with
  | nil =>
    simp only [sparsePut]
    split
    · rfl
    · simp [sparseFrom, *]
  | cons c m ih =>
    obtain ⟨k, w⟩ := c
    have h' := h
    simp only [sparseFrom, Bool.and_eq_true, decide_eq_true_eq, Bool.not_eq_true', decide_eq_false_iff_not] at h'
    obtain ⟨⟨hk, hw⟩, ht⟩ := h'
    simp only [sparsePut]
    split
    · split
      · exact h
      · simp [sparseFrom, *]
    · split
      · split
        · exact sparseFrom_weaken ht (by omega)
        · subst a; simp [sparseFrom, *]
      · simp only [sparseFrom, Bool.and_eq_true, decide_eq_true_eq, Bool.not_eq_true', decide_eq_false_iff_not]
        exact ⟨⟨hk, hw⟩, ih ht (by omega)⟩

/-- A write keeps the canonical form. -/
theorem sparseWf_put (h : sparseWf d m = true) : sparseWf d (sparsePut d m a v) = true :=
  sparseFrom_put h (Nat.zero_le a)

theorem sparseGet_put_other (hne : b ≠ a) : sparseGet d (sparsePut d m a v) b = sparseGet d m b := by
  induction m with
  | nil =>
    simp only [sparsePut]
    split
    · rfl
    · simp [sparseGet, hne]
  | cons c m ih =>
    obtain ⟨k, w⟩ := c
    simp only [sparsePut]
    split
    · split
      · rfl
      · simp [sparseGet, hne]
    · split
      · subst a
        split <;> simp [sparseGet, hne]
      · simp [sparseGet, ih]

theorem sparseGet_put_from (h : sparseFrom d lo m = true) : sparseGet d (sparsePut d m a v) a = v := by
  induction m generalizing lo with
  | nil =>
    simp only [sparsePut]
    split
    · simp [sparseGet, *]
    · simp [sparseGet]
  | cons c m ih =>
    obtain ⟨k, w⟩ := c
    simp only [sparseFrom, Bool.and_eq_true, decide_eq_true_eq] at h
    simp only [sparsePut]
    split
    · rename_i hlt
      split
      · rename_i hv
        rw [hv]
        simp only [sparseGet]
        rw [if_neg (by omega)]
        exact sparseGet_below h.2 (by omega)
      · simp [sparseGet]
    · split
      · rename_i hk
        subst hk
        split
        · rename_i hv
          rw [hv]
          exact sparseGet_below h.2 (by omega)
        · simp [sparseGet]
      · rename_i hk
        simp only [sparseGet]
        rw [if_neg hk]
        exact ih h.2

/-- A read after a write to the same key gives the value written. -/
theorem sparseGet_put_same (h : sparseWf d m = true) : sparseGet d (sparsePut d m a v) a = v :=
  sparseGet_put_from h

theorem sparseGet_put (h : sparseWf d m = true) :
    sparseGet d (sparsePut d m a v) b = if b = a then v else sparseGet d m b := by
  split
  · rename_i e; subst e; exact sparseGet_put_same h
  · exact sparseGet_put_other ‹_›

theorem sparse_ext_from {n : List (Nat × α)} (hm : sparseFrom d lo m = true) (hn : sparseFrom d lo n = true)
    (h : ∀ a, sparseGet d m a = sparseGet d n a) : m = n := by
  induction m generalizing lo n with
  | nil =>
    cases n with
    | nil => rfl
    | cons c n =>
      exfalso
      simp only [sparseFrom, Bool.and_eq_true, Bool.not_eq_true', decide_eq_false_iff_not] at hn
      have := h c.1
      simp only [sparseGet] at this
      exact hn.1.2 (by simpa using this.symm)
  | cons c m ih =>
    obtain ⟨k, v⟩ := c
    simp only [sparseFrom, Bool.and_eq_true, decide_eq_true_eq, Bool.not_eq_true', decide_eq_false_iff_not] at hm
    cases n with
    | nil =>
      exfalso
      have := h k
      simp only [sparseGet] at this
      exact hm.1.2 (by simpa using this)
    | cons c' n =>
      obtain ⟨k', v'⟩ := c'
      simp only [sparseFrom, Bool.and_eq_true, decide_eq_true_eq, Bool.not_eq_true', decide_eq_false_iff_not] at hn
      have hk : k = k' := by
        rcases Nat.lt_trichotomy k k' with hlt | heq | hgt
        · exfalso
          have := h k
          simp only [sparseGet, if_true] at this
          rw [if_neg (by omega), sparseGet_below hn.2 (by omega)] at this
          exact hm.1.2 this
        · exact heq
        · exfalso
          have := h k'
          simp only [sparseGet, if_true] at this
          rw [if_neg (by omega), sparseGet_below hm.2 (by omega)] at this
          exact hn.1.2 this.symm
      subst hk
      have hv : v = v' := by simpa [sparseGet] using h k
      subst hv
      rw [ih hm.2 hn.2]
      intro a
      by_cases ha : a = k
      · subst ha
        rw [sparseGet_below hm.2 (by omega), sparseGet_below hn.2 (by omega)]
      · simpa [sparseGet, ha] using h a

/-- Canonical maps that read alike are equal data. -/
theorem sparse_ext {n : List (Nat × α)} (hm : sparseWf d m = true) (hn : sparseWf d n = true)
    (h : ∀ a, sparseGet d m a = sparseGet d n a) : m = n := sparse_ext_from hm hn h

/-- Of two writes to one key the second alone counts. -/
theorem sparsePut_put (h : sparseWf d m = true) : sparsePut d (sparsePut d m a v) a w = sparsePut d m a w :=
  sparse_ext (sparseWf_put (sparseWf_put h)) (sparseWf_put h) fun b => by
    rw [sparseGet_put (sparseWf_put h), sparseGet_put h, sparseGet_put h]
    split <;> rfl

end Sys2Proof.Laws
end

