-- ==== Sys2Proof/Laws/Memory.lean ====
section
/-! SUPPORT. Laws of buffer memory: a read after a write, what a block store leaves alone, and the canonical form. -/

namespace Sys2Proof.Laws

open Sys2Proof.Machine

theorem memWf_setBytes {m : List Host.Cell} (bs : List Byte) (a : Nat) (h : memWf m = true) :
    memWf (memSetBytes m a bs) = true := by
  induction bs generalizing m a with
  | nil => exact h
  | cons b bs ih => exact ih (a + 1) (sparseWf_put h)

theorem memWf_write {m : List Host.Cell} (a : Nat) (V : Block) (h : memWf m = true) : memWf (memWrite m a V) = true :=
  memWf_setBytes _ a h

theorem memByte_setBytes_outside (m : List Host.Cell) (bs : List Byte) (a b : Nat) (h : b < a ∨ a + bs.length ≤ b) :
    memByte (memSetBytes m a bs) b = memByte m b := by
  induction bs generalizing m a with
  | nil => rfl
  | cons c bs ih =>
    simp only [List.length_cons] at h
    simp only [memSetBytes]
    rw [ih _ _ (by omega)]
    exact sparseGet_put_other (by omega)

theorem memByte_setBytes_inside {m : List Host.Cell} (bs : List Byte) (a i : Nat) (hm : memWf m = true)
    (h : i < bs.length) : memByte (memSetBytes m a bs) (a + i) = bs[i] := by
  induction bs generalizing m a i with
  | nil => exact absurd h (by simp)
  | cons c bs ih =>
    simp only [memSetBytes]
    cases i with
    | zero =>
      rw [memByte_setBytes_outside _ _ _ _ (by omega)]
      exact sparseGet_put_same hm
    | succ i =>
      have := ih (m := memSetByte m a c) (a + 1) i (sparseWf_put hm) (by simpa using h)
      rw [show a + 1 + i = a + (i + 1) by omega] at this
      simpa using this

theorem memBytes_length (m : List Host.Cell) (a n : Nat) : (memBytes m a n).length = n := by simp [memBytes]

theorem memBytes_getElem (m : List Host.Cell) (a n i : Nat) (h : i < (memBytes m a n).length) :
    (memBytes m a n)[i] = memByte m (a + i) := by simp [memBytes]

theorem bytesExist_iff (p : Platform) (a n : Nat) :
    bytesExist p a n = true ↔ ∀ i, i < n → memValid p (a + i) = true := by simp [bytesExist]

/-- Everything a host store can do. -/
theorem hostStore_cases (a : Nat) (bs : List Byte) (s : State) :
    (∀ i, i < bs.length → memValid s.platform (a + i) = true) ∧
        s.hostStore a bs = .next { s with mem := memSetBytes s.mem a bs } ∨
      (∃ i, i < bs.length ∧ memValid s.platform (a + i) = false) ∧ s.hostStore a bs = .fault (.hostStoreAbsent a) := by
  by_cases h : bytesExist s.platform a bs.length = true
  · exact .inl ⟨(bytesExist_iff _ _ _).1 h, by simp [State.hostStore, h]⟩
  · refine .inr ⟨?_, by simp [State.hostStore, h]⟩
    simpa [bytesExist_iff] using h

/-- Everything a host read can do. -/
theorem hostLoad_cases (a n : Nat) (s : State) :
    (∀ i, i < n → memValid s.platform (a + i) = true) ∧
        s.hostLoad a n = .next { s with resp := some (.memory a (memBytes s.mem a n)) } ∨
      (∃ i, i < n ∧ memValid s.platform (a + i) = false) ∧ s.hostLoad a n = .fault (.hostLoadAbsent a) := by
  by_cases h : bytesExist s.platform a n = true
  · exact .inl ⟨(bytesExist_iff _ _ _).1 h, by simp [State.hostLoad, h]⟩
  · refine .inr ⟨?_, by simp [State.hostLoad, h]⟩
    simpa [bytesExist_iff] using h

/-- A block store puts byte `i` of the value at `a + i` (20_memory R62). -/
theorem memByte_write_inside {m : List Host.Cell} (a i : Nat) (V : Block) (hm : memWf m = true) (h : i < 16) :
    memByte (memWrite m a V) (a + i) = byteOf V i := by
  have := memByte_setBytes_inside ((List.range 16).map (byteOf V)) a i hm (by simpa using h)
  simpa [memWrite] using this

/-- A block store leaves every byte outside its 16 alone. -/
theorem memByte_write_outside (m : List Host.Cell) (a b : Nat) (V : Block) (h : b < a ∨ a + 16 ≤ b) :
    memByte (memWrite m a V) b = memByte m b :=
  memByte_setBytes_outside m _ a b (by simpa using h)

theorem byteOf_memRead (m : List Host.Cell) (a i : Nat) (h : i < 16) : byteOf (memRead m a) i = memByte m (a + i) :=
  byteOf_ofBytes _ i h

/-- A block load after a block store at the same address gives the value stored. -/
theorem memRead_write {m : List Host.Cell} (a : Nat) (V : Block) (hm : memWf m = true) :
    memRead (memWrite m a V) a = V :=
  block_ext fun i hi => by rw [byteOf_memRead _ _ _ hi, memByte_write_inside a i V hm hi]

/-- Canonical memories that read alike are equal data. -/
theorem mem_ext {m n : List Host.Cell} (hm : memWf m = true) (hn : memWf n = true)
    (h : ∀ a, memByte m a = memByte n a) : m = n := sparse_ext hm hn h

end Sys2Proof.Laws
end

