-- ==== Sys2Proof/Laws/PerInstr.lean ====
section
/-! SUPPORT. Statements made per instruction. `Row`: the words an instruction encodes to are exactly its own row's words of
spec/opcode_table.json, and no other row's. The encoder and the decoder do not read the table. -/

namespace Sys2Proof.Laws.Row

/-- The encoding of `i` fits the row of `i` in the opcode table and no other. -/
def Statement (i : Instr) : Prop :=
  (opcodeTable.all fun r => r.fits (encode i) == decide (r.mnemonic = i.mnemonic)) = true

theorem construct : Statement .construct := rfl

theorem encrypt (mode : Mode) : Statement (.encrypt mode) := by cases mode; rfl

theorem decrypt (mode : Mode) : Statement (.decrypt mode) := by cases mode; rfl

theorem encb : Statement .encb := rfl

theorem decb : Statement .decb := rfl

theorem destroy : Statement .destroy := rfl

theorem crread (n : CR) : Statement (.crread n) := by cases n <;> rfl

theorem crwrite (n : CR) (v : Nat) : Statement (.crwrite n v) := by cases n <;> rfl

theorem pxor (d a b : Reg) : Statement (.pxor d a b) := rfl

theorem pslldq4 (d a : Reg) : Statement (.pslldq4 d a) := rfl

theorem pshufdFf (d a : Reg) : Statement (.pshufdFf d a) := rfl

theorem aeskeygenassist (d a : Reg) (imm8 : Byte) : Statement (.aeskeygenassist d a imm8) := by
  have all : ∀ imm8 : Byte, Statement (.aeskeygenassist .t .k imm8) := by
    unfold Statement; decide +kernel
  exact all imm8

theorem aesimc (d a : Reg) : Statement (.aesimc d a) := rfl

theorem aesenc (d a rk : Reg) : Statement (.aesenc d a rk) := rfl

theorem aesenclast (d a rk : Reg) : Statement (.aesenclast d a rk) := rfl

theorem aesdec (d a rk : Reg) : Statement (.aesdec d a rk) := rfl

theorem aesdeclast (d a rk : Reg) : Statement (.aesdeclast d a rk) := rfl

theorem ldblk (j addr : Nat) : Statement (.ldblk j addr) := rfl

theorem stblk (addr j : Nat) : Statement (.stblk addr j) := rfl

end Sys2Proof.Laws.Row
end

