-- ==== Sys2Proof/Laws/State.lean ====
section
/-! SUPPORT. What each named update of the state does to each field, one lemma a field, true by rfl; and the same for a write
of a 128-bit register. Fields an update redraws from a free value have no lemma. -/

namespace Sys2Proof.Laws

open Sys2Proof.Machine

@[simp] theorem raise_platform (s : State) (e : Err) (i : Word) : (s.raise e i).platform = s.platform := rfl
@[simp] theorem raise_keyin (s : State) (e : Err) (i : Word) : (s.raise e i).keyin = s.keyin := rfl
@[simp] theorem raise_din (s : State) (e : Err) (i : Word) : (s.raise e i).din = s.din := rfl
@[simp] theorem raise_dout (s : State) (e : Err) (i : Word) : (s.raise e i).dout = s.dout := rfl
@[simp] theorem raise_key (s : State) (e : Err) (i : Word) : (s.raise e i).key = s.key := rfl
@[simp] theorem raise_eks (s : State) (e : Err) (i : Word) : (s.raise e i).eks = s.eks := rfl
@[simp] theorem raise_dks (s : State) (e : Err) (i : Word) : (s.raise e i).dks = s.dks := rfl
@[simp] theorem raise_k (s : State) (e : Err) (i : Word) : (s.raise e i).k = s.k := rfl
@[simp] theorem raise_t (s : State) (e : Err) (i : Word) : (s.raise e i).t = s.t := rfl
@[simp] theorem raise_u (s : State) (e : Err) (i : Word) : (s.raise e i).u = s.u := rfl
@[simp] theorem raise_sreg (s : State) (e : Err) (i : Word) : (s.raise e i).sreg = s.sreg := rfl
@[simp] theorem raise_status (s : State) (e : Err) (i : Word) : (s.raise e i).status = withErrBit true s.status := rfl
@[simp] theorem raise_errcode (s : State) (e : Err) (i : Word) : (s.raise e i).errcode = e.code := rfl
@[simp] theorem raise_errinfo (s : State) (e : Err) (i : Word) : (s.raise e i).errinfo = i := rfl
@[simp] theorem raise_src (s : State) (e : Err) (i : Word) : (s.raise e i).src = s.src := rfl
@[simp] theorem raise_dst (s : State) (e : Err) (i : Word) : (s.raise e i).dst = s.dst := rfl
@[simp] theorem raise_len (s : State) (e : Err) (i : Word) : (s.raise e i).len = s.len := rfl
@[simp] theorem raise_hint (s : State) (e : Err) (i : Word) : (s.raise e i).hint = s.hint := rfl
@[simp] theorem raise_phase (s : State) (e : Err) (i : Word) : (s.raise e i).phase = .idle := rfl
@[simp] theorem raise_rnd (s : State) (e : Err) (i : Word) : (s.raise e i).rnd = 0 := rfl
@[simp] theorem raise_blkDir (s : State) (e : Err) (i : Word) : (s.raise e i).blkDir = s.blkDir := rfl
@[simp] theorem raise_dir (s : State) (e : Err) (i : Word) : (s.raise e i).dir = s.dir := rfl
@[simp] theorem raise_nblk (s : State) (e : Err) (i : Word) : (s.raise e i).nblk = s.nblk := rfl
@[simp] theorem raise_wcount (s : State) (e : Err) (i : Word) : (s.raise e i).wcount = s.wcount := rfl
@[simp] theorem raise_base (s : State) (e : Err) (i : Word) : (s.raise e i).base = s.base := rfl
@[simp] theorem raise_extra (s : State) (e : Err) (i : Word) : (s.raise e i).extra = s.extra := rfl
@[simp] theorem raise_workers (s : State) (e : Err) (i : Word) : (s.raise e i).workers = s.workers := rfl
@[simp] theorem raise_useq (s : State) (e : Err) (i : Word) : (s.raise e i).useq = s.useq := rfl
@[simp] theorem raise_sched (s : State) (e : Err) (i : Word) : (s.raise e i).sched = s.sched := rfl
@[simp] theorem raise_hostq (s : State) (e : Err) (i : Word) : (s.raise e i).hostq = s.hostq := rfl
@[simp] theorem raise_resp (s : State) (e : Err) (i : Word) : (s.raise e i).resp = s.resp := rfl
@[simp] theorem raise_mem (s : State) (e : Err) (i : Word) : (s.raise e i).mem = s.mem := rfl
@[simp] theorem raise_freeCount (s : State) (e : Err) (i : Word) : (s.raise e i).freeCount = s.freeCount := rfl

@[simp] theorem ret_platform (s : State) : s.ret.platform = s.platform := rfl
@[simp] theorem ret_keyin (s : State) : s.ret.keyin = s.keyin := rfl
@[simp] theorem ret_din (s : State) : s.ret.din = s.din := rfl
@[simp] theorem ret_dout (s : State) : s.ret.dout = s.dout := rfl
@[simp] theorem ret_key (s : State) : s.ret.key = s.key := rfl
@[simp] theorem ret_eks (s : State) : s.ret.eks = s.eks := rfl
@[simp] theorem ret_dks (s : State) : s.ret.dks = s.dks := rfl
@[simp] theorem ret_k (s : State) : s.ret.k = s.k := rfl
@[simp] theorem ret_t (s : State) : s.ret.t = s.t := rfl
@[simp] theorem ret_u (s : State) : s.ret.u = s.u := rfl
@[simp] theorem ret_sreg (s : State) : s.ret.sreg = s.sreg := rfl
@[simp] theorem ret_status (s : State) : s.ret.status = withErrBit false s.status := rfl
@[simp] theorem ret_errcode (s : State) : s.ret.errcode = 0 := rfl
@[simp] theorem ret_errinfo (s : State) : s.ret.errinfo = 0 := rfl
@[simp] theorem ret_src (s : State) : s.ret.src = s.src := rfl
@[simp] theorem ret_dst (s : State) : s.ret.dst = s.dst := rfl
@[simp] theorem ret_len (s : State) : s.ret.len = s.len := rfl
@[simp] theorem ret_hint (s : State) : s.ret.hint = s.hint := rfl
@[simp] theorem ret_phase (s : State) : s.ret.phase = .idle := rfl
@[simp] theorem ret_rnd (s : State) : s.ret.rnd = 0 := rfl
@[simp] theorem ret_blkDir (s : State) : s.ret.blkDir = s.blkDir := rfl
@[simp] theorem ret_dir (s : State) : s.ret.dir = s.dir := rfl
@[simp] theorem ret_nblk (s : State) : s.ret.nblk = s.nblk := rfl
@[simp] theorem ret_wcount (s : State) : s.ret.wcount = s.wcount := rfl
@[simp] theorem ret_base (s : State) : s.ret.base = s.base := rfl
@[simp] theorem ret_extra (s : State) : s.ret.extra = s.extra := rfl
@[simp] theorem ret_workers (s : State) : s.ret.workers = s.workers := rfl
@[simp] theorem ret_useq (s : State) : s.ret.useq = s.useq := rfl
@[simp] theorem ret_sched (s : State) : s.ret.sched = s.sched := rfl
@[simp] theorem ret_hostq (s : State) : s.ret.hostq = s.hostq := rfl
@[simp] theorem ret_resp (s : State) : s.ret.resp = s.resp := rfl
@[simp] theorem ret_mem (s : State) : s.ret.mem = s.mem := rfl
@[simp] theorem ret_freeCount (s : State) : s.ret.freeCount = s.freeCount := rfl

@[simp] theorem goto_platform (s : State) (p : Phase) (r : Nat) : (s.goto p r).platform = s.platform := rfl
@[simp] theorem goto_keyin (s : State) (p : Phase) (r : Nat) : (s.goto p r).keyin = s.keyin := rfl
@[simp] theorem goto_din (s : State) (p : Phase) (r : Nat) : (s.goto p r).din = s.din := rfl
@[simp] theorem goto_dout (s : State) (p : Phase) (r : Nat) : (s.goto p r).dout = s.dout := rfl
@[simp] theorem goto_key (s : State) (p : Phase) (r : Nat) : (s.goto p r).key = s.key := rfl
@[simp] theorem goto_eks (s : State) (p : Phase) (r : Nat) : (s.goto p r).eks = s.eks := rfl
@[simp] theorem goto_dks (s : State) (p : Phase) (r : Nat) : (s.goto p r).dks = s.dks := rfl
@[simp] theorem goto_k (s : State) (p : Phase) (r : Nat) : (s.goto p r).k = s.k := rfl
@[simp] theorem goto_t (s : State) (p : Phase) (r : Nat) : (s.goto p r).t = s.t := rfl
@[simp] theorem goto_u (s : State) (p : Phase) (r : Nat) : (s.goto p r).u = s.u := rfl
@[simp] theorem goto_sreg (s : State) (p : Phase) (r : Nat) : (s.goto p r).sreg = s.sreg := rfl
@[simp] theorem goto_status (s : State) (p : Phase) (r : Nat) : (s.goto p r).status = s.status := rfl
@[simp] theorem goto_errcode (s : State) (p : Phase) (r : Nat) : (s.goto p r).errcode = s.errcode := rfl
@[simp] theorem goto_errinfo (s : State) (p : Phase) (r : Nat) : (s.goto p r).errinfo = s.errinfo := rfl
@[simp] theorem goto_src (s : State) (p : Phase) (r : Nat) : (s.goto p r).src = s.src := rfl
@[simp] theorem goto_dst (s : State) (p : Phase) (r : Nat) : (s.goto p r).dst = s.dst := rfl
@[simp] theorem goto_len (s : State) (p : Phase) (r : Nat) : (s.goto p r).len = s.len := rfl
@[simp] theorem goto_hint (s : State) (p : Phase) (r : Nat) : (s.goto p r).hint = s.hint := rfl
@[simp] theorem goto_phase (s : State) (p : Phase) (r : Nat) : (s.goto p r).phase = p := rfl
@[simp] theorem goto_rnd (s : State) (p : Phase) (r : Nat) : (s.goto p r).rnd = r := rfl
@[simp] theorem goto_blkDir (s : State) (p : Phase) (r : Nat) : (s.goto p r).blkDir = s.blkDir := rfl
@[simp] theorem goto_dir (s : State) (p : Phase) (r : Nat) : (s.goto p r).dir = s.dir := rfl
@[simp] theorem goto_nblk (s : State) (p : Phase) (r : Nat) : (s.goto p r).nblk = s.nblk := rfl
@[simp] theorem goto_wcount (s : State) (p : Phase) (r : Nat) : (s.goto p r).wcount = s.wcount := rfl
@[simp] theorem goto_base (s : State) (p : Phase) (r : Nat) : (s.goto p r).base = s.base := rfl
@[simp] theorem goto_extra (s : State) (p : Phase) (r : Nat) : (s.goto p r).extra = s.extra := rfl
@[simp] theorem goto_workers (s : State) (p : Phase) (r : Nat) : (s.goto p r).workers = s.workers := rfl
@[simp] theorem goto_useq (s : State) (p : Phase) (r : Nat) : (s.goto p r).useq = s.useq := rfl
@[simp] theorem goto_sched (s : State) (p : Phase) (r : Nat) : (s.goto p r).sched = s.sched := rfl
@[simp] theorem goto_hostq (s : State) (p : Phase) (r : Nat) : (s.goto p r).hostq = s.hostq := rfl
@[simp] theorem goto_resp (s : State) (p : Phase) (r : Nat) : (s.goto p r).resp = s.resp := rfl
@[simp] theorem goto_mem (s : State) (p : Phase) (r : Nat) : (s.goto p r).mem = s.mem := rfl
@[simp] theorem goto_freeCount (s : State) (p : Phase) (r : Nat) : (s.goto p r).freeCount = s.freeCount := rfl

@[simp] theorem writeS_platform (s : State) (j : Nat) (v : Block) : (s.writeS j v).platform = s.platform := rfl
@[simp] theorem writeS_keyin (s : State) (j : Nat) (v : Block) : (s.writeS j v).keyin = s.keyin := rfl
@[simp] theorem writeS_din (s : State) (j : Nat) (v : Block) : (s.writeS j v).din = s.din := rfl
@[simp] theorem writeS_dout (s : State) (j : Nat) (v : Block) : (s.writeS j v).dout = s.dout := rfl
@[simp] theorem writeS_key (s : State) (j : Nat) (v : Block) : (s.writeS j v).key = s.key := rfl
@[simp] theorem writeS_eks (s : State) (j : Nat) (v : Block) : (s.writeS j v).eks = s.eks := rfl
@[simp] theorem writeS_dks (s : State) (j : Nat) (v : Block) : (s.writeS j v).dks = s.dks := rfl
@[simp] theorem writeS_k (s : State) (j : Nat) (v : Block) : (s.writeS j v).k = s.k := rfl
@[simp] theorem writeS_t (s : State) (j : Nat) (v : Block) : (s.writeS j v).t = s.t := rfl
@[simp] theorem writeS_u (s : State) (j : Nat) (v : Block) : (s.writeS j v).u = s.u := rfl
@[simp] theorem writeS_sreg (s : State) (j : Nat) (v : Block) : (s.writeS j v).sreg = sparsePut unwrittenS s.sreg j v := rfl
@[simp] theorem writeS_status (s : State) (j : Nat) (v : Block) : (s.writeS j v).status = s.status := rfl
@[simp] theorem writeS_errcode (s : State) (j : Nat) (v : Block) : (s.writeS j v).errcode = s.errcode := rfl
@[simp] theorem writeS_errinfo (s : State) (j : Nat) (v : Block) : (s.writeS j v).errinfo = s.errinfo := rfl
@[simp] theorem writeS_src (s : State) (j : Nat) (v : Block) : (s.writeS j v).src = s.src := rfl
@[simp] theorem writeS_dst (s : State) (j : Nat) (v : Block) : (s.writeS j v).dst = s.dst := rfl
@[simp] theorem writeS_len (s : State) (j : Nat) (v : Block) : (s.writeS j v).len = s.len := rfl
@[simp] theorem writeS_hint (s : State) (j : Nat) (v : Block) : (s.writeS j v).hint = s.hint := rfl
@[simp] theorem writeS_phase (s : State) (j : Nat) (v : Block) : (s.writeS j v).phase = s.phase := rfl
@[simp] theorem writeS_rnd (s : State) (j : Nat) (v : Block) : (s.writeS j v).rnd = s.rnd := rfl
@[simp] theorem writeS_blkDir (s : State) (j : Nat) (v : Block) : (s.writeS j v).blkDir = s.blkDir := rfl
@[simp] theorem writeS_dir (s : State) (j : Nat) (v : Block) : (s.writeS j v).dir = s.dir := rfl
@[simp] theorem writeS_nblk (s : State) (j : Nat) (v : Block) : (s.writeS j v).nblk = s.nblk := rfl
@[simp] theorem writeS_wcount (s : State) (j : Nat) (v : Block) : (s.writeS j v).wcount = s.wcount := rfl
@[simp] theorem writeS_base (s : State) (j : Nat) (v : Block) : (s.writeS j v).base = s.base := rfl
@[simp] theorem writeS_extra (s : State) (j : Nat) (v : Block) : (s.writeS j v).extra = s.extra := rfl
@[simp] theorem writeS_workers (s : State) (j : Nat) (v : Block) : (s.writeS j v).workers = s.workers := rfl
@[simp] theorem writeS_useq (s : State) (j : Nat) (v : Block) : (s.writeS j v).useq = s.useq := rfl
@[simp] theorem writeS_sched (s : State) (j : Nat) (v : Block) : (s.writeS j v).sched = s.sched := rfl
@[simp] theorem writeS_hostq (s : State) (j : Nat) (v : Block) : (s.writeS j v).hostq = s.hostq := rfl
@[simp] theorem writeS_resp (s : State) (j : Nat) (v : Block) : (s.writeS j v).resp = s.resp := rfl
@[simp] theorem writeS_mem (s : State) (j : Nat) (v : Block) : (s.writeS j v).mem = s.mem := rfl
@[simp] theorem writeS_freeCount (s : State) (j : Nat) (v : Block) : (s.writeS j v).freeCount = s.freeCount := rfl

@[simp] theorem setKeyed_platform (s : State) (b : Bool) : (s.setKeyed b).platform = s.platform := rfl
@[simp] theorem setKeyed_keyin (s : State) (b : Bool) : (s.setKeyed b).keyin = s.keyin := rfl
@[simp] theorem setKeyed_din (s : State) (b : Bool) : (s.setKeyed b).din = s.din := rfl
@[simp] theorem setKeyed_dout (s : State) (b : Bool) : (s.setKeyed b).dout = s.dout := rfl
@[simp] theorem setKeyed_key (s : State) (b : Bool) : (s.setKeyed b).key = s.key := rfl
@[simp] theorem setKeyed_eks (s : State) (b : Bool) : (s.setKeyed b).eks = s.eks := rfl
@[simp] theorem setKeyed_dks (s : State) (b : Bool) : (s.setKeyed b).dks = s.dks := rfl
@[simp] theorem setKeyed_k (s : State) (b : Bool) : (s.setKeyed b).k = s.k := rfl
@[simp] theorem setKeyed_t (s : State) (b : Bool) : (s.setKeyed b).t = s.t := rfl
@[simp] theorem setKeyed_u (s : State) (b : Bool) : (s.setKeyed b).u = s.u := rfl
@[simp] theorem setKeyed_sreg (s : State) (b : Bool) : (s.setKeyed b).sreg = s.sreg := rfl
@[simp] theorem setKeyed_status (s : State) (b : Bool) : (s.setKeyed b).status = withKeyedBit b s.status := rfl
@[simp] theorem setKeyed_errcode (s : State) (b : Bool) : (s.setKeyed b).errcode = s.errcode := rfl
@[simp] theorem setKeyed_errinfo (s : State) (b : Bool) : (s.setKeyed b).errinfo = s.errinfo := rfl
@[simp] theorem setKeyed_src (s : State) (b : Bool) : (s.setKeyed b).src = s.src := rfl
@[simp] theorem setKeyed_dst (s : State) (b : Bool) : (s.setKeyed b).dst = s.dst := rfl
@[simp] theorem setKeyed_len (s : State) (b : Bool) : (s.setKeyed b).len = s.len := rfl
@[simp] theorem setKeyed_hint (s : State) (b : Bool) : (s.setKeyed b).hint = s.hint := rfl
@[simp] theorem setKeyed_phase (s : State) (b : Bool) : (s.setKeyed b).phase = s.phase := rfl
@[simp] theorem setKeyed_rnd (s : State) (b : Bool) : (s.setKeyed b).rnd = s.rnd := rfl
@[simp] theorem setKeyed_blkDir (s : State) (b : Bool) : (s.setKeyed b).blkDir = s.blkDir := rfl
@[simp] theorem setKeyed_dir (s : State) (b : Bool) : (s.setKeyed b).dir = s.dir := rfl
@[simp] theorem setKeyed_nblk (s : State) (b : Bool) : (s.setKeyed b).nblk = s.nblk := rfl
@[simp] theorem setKeyed_wcount (s : State) (b : Bool) : (s.setKeyed b).wcount = s.wcount := rfl
@[simp] theorem setKeyed_base (s : State) (b : Bool) : (s.setKeyed b).base = s.base := rfl
@[simp] theorem setKeyed_extra (s : State) (b : Bool) : (s.setKeyed b).extra = s.extra := rfl
@[simp] theorem setKeyed_workers (s : State) (b : Bool) : (s.setKeyed b).workers = s.workers := rfl
@[simp] theorem setKeyed_useq (s : State) (b : Bool) : (s.setKeyed b).useq = s.useq := rfl
@[simp] theorem setKeyed_sched (s : State) (b : Bool) : (s.setKeyed b).sched = s.sched := rfl
@[simp] theorem setKeyed_hostq (s : State) (b : Bool) : (s.setKeyed b).hostq = s.hostq := rfl
@[simp] theorem setKeyed_resp (s : State) (b : Bool) : (s.setKeyed b).resp = s.resp := rfl
@[simp] theorem setKeyed_mem (s : State) (b : Bool) : (s.setKeyed b).mem = s.mem := rfl
@[simp] theorem setKeyed_freeCount (s : State) (b : Bool) : (s.setKeyed b).freeCount = s.freeCount := rfl

@[simp] theorem faultWorker_platform (s : State) (j : Nat) : (s.faultWorker j).platform = s.platform := rfl
@[simp] theorem faultWorker_keyin (s : State) (j : Nat) : (s.faultWorker j).keyin = s.keyin := rfl
@[simp] theorem faultWorker_din (s : State) (j : Nat) : (s.faultWorker j).din = s.din := rfl
@[simp] theorem faultWorker_dout (s : State) (j : Nat) : (s.faultWorker j).dout = s.dout := rfl
@[simp] theorem faultWorker_key (s : State) (j : Nat) : (s.faultWorker j).key = s.key := rfl
@[simp] theorem faultWorker_eks (s : State) (j : Nat) : (s.faultWorker j).eks = s.eks := rfl
@[simp] theorem faultWorker_dks (s : State) (j : Nat) : (s.faultWorker j).dks = s.dks := rfl
@[simp] theorem faultWorker_k (s : State) (j : Nat) : (s.faultWorker j).k = s.k := rfl
@[simp] theorem faultWorker_t (s : State) (j : Nat) : (s.faultWorker j).t = s.t := rfl
@[simp] theorem faultWorker_u (s : State) (j : Nat) : (s.faultWorker j).u = s.u := rfl
@[simp] theorem faultWorker_sreg (s : State) (j : Nat) : (s.faultWorker j).sreg = s.sreg := rfl
@[simp] theorem faultWorker_status (s : State) (j : Nat) : (s.faultWorker j).status = s.status := rfl
@[simp] theorem faultWorker_errcode (s : State) (j : Nat) : (s.faultWorker j).errcode = s.errcode := rfl
@[simp] theorem faultWorker_errinfo (s : State) (j : Nat) : (s.faultWorker j).errinfo = s.errinfo := rfl
@[simp] theorem faultWorker_src (s : State) (j : Nat) : (s.faultWorker j).src = s.src := rfl
@[simp] theorem faultWorker_dst (s : State) (j : Nat) : (s.faultWorker j).dst = s.dst := rfl
@[simp] theorem faultWorker_len (s : State) (j : Nat) : (s.faultWorker j).len = s.len := rfl
@[simp] theorem faultWorker_hint (s : State) (j : Nat) : (s.faultWorker j).hint = s.hint := rfl
@[simp] theorem faultWorker_phase (s : State) (j : Nat) : (s.faultWorker j).phase = s.phase := rfl
@[simp] theorem faultWorker_rnd (s : State) (j : Nat) : (s.faultWorker j).rnd = s.rnd := rfl
@[simp] theorem faultWorker_blkDir (s : State) (j : Nat) : (s.faultWorker j).blkDir = s.blkDir := rfl
@[simp] theorem faultWorker_dir (s : State) (j : Nat) : (s.faultWorker j).dir = s.dir := rfl
@[simp] theorem faultWorker_nblk (s : State) (j : Nat) : (s.faultWorker j).nblk = s.nblk := rfl
@[simp] theorem faultWorker_wcount (s : State) (j : Nat) : (s.faultWorker j).wcount = s.wcount := rfl
@[simp] theorem faultWorker_base (s : State) (j : Nat) : (s.faultWorker j).base = s.base := rfl
@[simp] theorem faultWorker_extra (s : State) (j : Nat) : (s.faultWorker j).extra = s.extra := rfl
@[simp] theorem faultWorker_workers (s : State) (j : Nat) : (s.faultWorker j).workers = s.workers.modify j (fun w => { w with wstat := .fault }) := rfl
@[simp] theorem faultWorker_useq (s : State) (j : Nat) : (s.faultWorker j).useq = s.useq := rfl
@[simp] theorem faultWorker_sched (s : State) (j : Nat) : (s.faultWorker j).sched = s.sched := rfl
@[simp] theorem faultWorker_hostq (s : State) (j : Nat) : (s.faultWorker j).hostq = s.hostq := rfl
@[simp] theorem faultWorker_resp (s : State) (j : Nat) : (s.faultWorker j).resp = s.resp := rfl
@[simp] theorem faultWorker_mem (s : State) (j : Nat) : (s.faultWorker j).mem = s.mem := rfl
@[simp] theorem faultWorker_freeCount (s : State) (j : Nat) : (s.faultWorker j).freeCount = s.freeCount := rfl

@[simp] theorem updateWorker_platform (s : State) (j : Nat) (f : Worker → Worker) : (s.updateWorker j f).platform = s.platform := rfl
@[simp] theorem updateWorker_keyin (s : State) (j : Nat) (f : Worker → Worker) : (s.updateWorker j f).keyin = s.keyin := rfl
@[simp] theorem updateWorker_din (s : State) (j : Nat) (f : Worker → Worker) : (s.updateWorker j f).din = s.din := rfl
@[simp] theorem updateWorker_dout (s : State) (j : Nat) (f : Worker → Worker) : (s.updateWorker j f).dout = s.dout := rfl
@[simp] theorem updateWorker_key (s : State) (j : Nat) (f : Worker → Worker) : (s.updateWorker j f).key = s.key := rfl
@[simp] theorem updateWorker_eks (s : State) (j : Nat) (f : Worker → Worker) : (s.updateWorker j f).eks = s.eks := rfl
@[simp] theorem updateWorker_dks (s : State) (j : Nat) (f : Worker → Worker) : (s.updateWorker j f).dks = s.dks := rfl
@[simp] theorem updateWorker_k (s : State) (j : Nat) (f : Worker → Worker) : (s.updateWorker j f).k = s.k := rfl
@[simp] theorem updateWorker_t (s : State) (j : Nat) (f : Worker → Worker) : (s.updateWorker j f).t = s.t := rfl
@[simp] theorem updateWorker_u (s : State) (j : Nat) (f : Worker → Worker) : (s.updateWorker j f).u = s.u := rfl
@[simp] theorem updateWorker_sreg (s : State) (j : Nat) (f : Worker → Worker) : (s.updateWorker j f).sreg = s.sreg := rfl
@[simp] theorem updateWorker_status (s : State) (j : Nat) (f : Worker → Worker) : (s.updateWorker j f).status = s.status := rfl
@[simp] theorem updateWorker_errcode (s : State) (j : Nat) (f : Worker → Worker) : (s.updateWorker j f).errcode = s.errcode := rfl
@[simp] theorem updateWorker_errinfo (s : State) (j : Nat) (f : Worker → Worker) : (s.updateWorker j f).errinfo = s.errinfo := rfl
@[simp] theorem updateWorker_src (s : State) (j : Nat) (f : Worker → Worker) : (s.updateWorker j f).src = s.src := rfl
@[simp] theorem updateWorker_dst (s : State) (j : Nat) (f : Worker → Worker) : (s.updateWorker j f).dst = s.dst := rfl
@[simp] theorem updateWorker_len (s : State) (j : Nat) (f : Worker → Worker) : (s.updateWorker j f).len = s.len := rfl
@[simp] theorem updateWorker_hint (s : State) (j : Nat) (f : Worker → Worker) : (s.updateWorker j f).hint = s.hint := rfl
@[simp] theorem updateWorker_phase (s : State) (j : Nat) (f : Worker → Worker) : (s.updateWorker j f).phase = s.phase := rfl
@[simp] theorem updateWorker_rnd (s : State) (j : Nat) (f : Worker → Worker) : (s.updateWorker j f).rnd = s.rnd := rfl
@[simp] theorem updateWorker_blkDir (s : State) (j : Nat) (f : Worker → Worker) : (s.updateWorker j f).blkDir = s.blkDir := rfl
@[simp] theorem updateWorker_dir (s : State) (j : Nat) (f : Worker → Worker) : (s.updateWorker j f).dir = s.dir := rfl
@[simp] theorem updateWorker_nblk (s : State) (j : Nat) (f : Worker → Worker) : (s.updateWorker j f).nblk = s.nblk := rfl
@[simp] theorem updateWorker_wcount (s : State) (j : Nat) (f : Worker → Worker) : (s.updateWorker j f).wcount = s.wcount := rfl
@[simp] theorem updateWorker_base (s : State) (j : Nat) (f : Worker → Worker) : (s.updateWorker j f).base = s.base := rfl
@[simp] theorem updateWorker_extra (s : State) (j : Nat) (f : Worker → Worker) : (s.updateWorker j f).extra = s.extra := rfl
@[simp] theorem updateWorker_workers (s : State) (j : Nat) (f : Worker → Worker) : (s.updateWorker j f).workers = s.workers.modify j (ifRunning f) := rfl
@[simp] theorem updateWorker_useq (s : State) (j : Nat) (f : Worker → Worker) : (s.updateWorker j f).useq = s.useq := rfl
@[simp] theorem updateWorker_sched (s : State) (j : Nat) (f : Worker → Worker) : (s.updateWorker j f).sched = s.sched := rfl
@[simp] theorem updateWorker_hostq (s : State) (j : Nat) (f : Worker → Worker) : (s.updateWorker j f).hostq = s.hostq := rfl
@[simp] theorem updateWorker_resp (s : State) (j : Nat) (f : Worker → Worker) : (s.updateWorker j f).resp = s.resp := rfl
@[simp] theorem updateWorker_mem (s : State) (j : Nat) (f : Worker → Worker) : (s.updateWorker j f).mem = s.mem := rfl
@[simp] theorem updateWorker_freeCount (s : State) (j : Nat) (f : Worker → Worker) : (s.updateWorker j f).freeCount = s.freeCount := rfl

@[simp] theorem redrawWorking_platform (s : State) : s.redrawWorking.platform = s.platform := rfl
@[simp] theorem redrawWorking_keyin (s : State) : s.redrawWorking.keyin = s.keyin := rfl
@[simp] theorem redrawWorking_din (s : State) : s.redrawWorking.din = s.din := rfl
@[simp] theorem redrawWorking_dout (s : State) : s.redrawWorking.dout = s.dout := rfl
@[simp] theorem redrawWorking_key (s : State) : s.redrawWorking.key = s.key := rfl
@[simp] theorem redrawWorking_eks (s : State) : s.redrawWorking.eks = s.eks := rfl
@[simp] theorem redrawWorking_dks (s : State) : s.redrawWorking.dks = s.dks := rfl
@[simp] theorem redrawWorking_sreg (s : State) : s.redrawWorking.sreg = s.sreg := rfl
@[simp] theorem redrawWorking_status (s : State) : s.redrawWorking.status = s.status := rfl
@[simp] theorem redrawWorking_errcode (s : State) : s.redrawWorking.errcode = s.errcode := rfl
@[simp] theorem redrawWorking_errinfo (s : State) : s.redrawWorking.errinfo = s.errinfo := rfl
@[simp] theorem redrawWorking_src (s : State) : s.redrawWorking.src = s.src := rfl
@[simp] theorem redrawWorking_dst (s : State) : s.redrawWorking.dst = s.dst := rfl
@[simp] theorem redrawWorking_len (s : State) : s.redrawWorking.len = s.len := rfl
@[simp] theorem redrawWorking_hint (s : State) : s.redrawWorking.hint = s.hint := rfl
@[simp] theorem redrawWorking_phase (s : State) : s.redrawWorking.phase = s.phase := rfl
@[simp] theorem redrawWorking_rnd (s : State) : s.redrawWorking.rnd = s.rnd := rfl
@[simp] theorem redrawWorking_blkDir (s : State) : s.redrawWorking.blkDir = s.blkDir := rfl
@[simp] theorem redrawWorking_dir (s : State) : s.redrawWorking.dir = s.dir := rfl
@[simp] theorem redrawWorking_nblk (s : State) : s.redrawWorking.nblk = s.nblk := rfl
@[simp] theorem redrawWorking_wcount (s : State) : s.redrawWorking.wcount = s.wcount := rfl
@[simp] theorem redrawWorking_base (s : State) : s.redrawWorking.base = s.base := rfl
@[simp] theorem redrawWorking_extra (s : State) : s.redrawWorking.extra = s.extra := rfl
@[simp] theorem redrawWorking_workers (s : State) : s.redrawWorking.workers = s.workers := rfl
@[simp] theorem redrawWorking_useq (s : State) : s.redrawWorking.useq = s.useq := rfl
@[simp] theorem redrawWorking_sched (s : State) : s.redrawWorking.sched = s.sched := rfl
@[simp] theorem redrawWorking_hostq (s : State) : s.redrawWorking.hostq = s.hostq := rfl
@[simp] theorem redrawWorking_resp (s : State) : s.redrawWorking.resp = s.resp := rfl
@[simp] theorem redrawWorking_mem (s : State) : s.redrawWorking.mem = s.mem := rfl

@[simp] theorem redrawKeyStore_platform (s : State) : s.redrawKeyStore.platform = s.platform := rfl
@[simp] theorem redrawKeyStore_keyin (s : State) : s.redrawKeyStore.keyin = s.keyin := rfl
@[simp] theorem redrawKeyStore_din (s : State) : s.redrawKeyStore.din = s.din := rfl
@[simp] theorem redrawKeyStore_dout (s : State) : s.redrawKeyStore.dout = s.dout := rfl
@[simp] theorem redrawKeyStore_k (s : State) : s.redrawKeyStore.k = s.k := rfl
@[simp] theorem redrawKeyStore_t (s : State) : s.redrawKeyStore.t = s.t := rfl
@[simp] theorem redrawKeyStore_u (s : State) : s.redrawKeyStore.u = s.u := rfl
@[simp] theorem redrawKeyStore_sreg (s : State) : s.redrawKeyStore.sreg = s.sreg := rfl
@[simp] theorem redrawKeyStore_status (s : State) : s.redrawKeyStore.status = s.status := rfl
@[simp] theorem redrawKeyStore_errcode (s : State) : s.redrawKeyStore.errcode = s.errcode := rfl
@[simp] theorem redrawKeyStore_errinfo (s : State) : s.redrawKeyStore.errinfo = s.errinfo := rfl
@[simp] theorem redrawKeyStore_src (s : State) : s.redrawKeyStore.src = s.src := rfl
@[simp] theorem redrawKeyStore_dst (s : State) : s.redrawKeyStore.dst = s.dst := rfl
@[simp] theorem redrawKeyStore_len (s : State) : s.redrawKeyStore.len = s.len := rfl
@[simp] theorem redrawKeyStore_hint (s : State) : s.redrawKeyStore.hint = s.hint := rfl
@[simp] theorem redrawKeyStore_phase (s : State) : s.redrawKeyStore.phase = s.phase := rfl
@[simp] theorem redrawKeyStore_rnd (s : State) : s.redrawKeyStore.rnd = s.rnd := rfl
@[simp] theorem redrawKeyStore_blkDir (s : State) : s.redrawKeyStore.blkDir = s.blkDir := rfl
@[simp] theorem redrawKeyStore_dir (s : State) : s.redrawKeyStore.dir = s.dir := rfl
@[simp] theorem redrawKeyStore_nblk (s : State) : s.redrawKeyStore.nblk = s.nblk := rfl
@[simp] theorem redrawKeyStore_wcount (s : State) : s.redrawKeyStore.wcount = s.wcount := rfl
@[simp] theorem redrawKeyStore_base (s : State) : s.redrawKeyStore.base = s.base := rfl
@[simp] theorem redrawKeyStore_extra (s : State) : s.redrawKeyStore.extra = s.extra := rfl
@[simp] theorem redrawKeyStore_workers (s : State) : s.redrawKeyStore.workers = s.workers := rfl
@[simp] theorem redrawKeyStore_useq (s : State) : s.redrawKeyStore.useq = s.useq := rfl
@[simp] theorem redrawKeyStore_sched (s : State) : s.redrawKeyStore.sched = s.sched := rfl
@[simp] theorem redrawKeyStore_hostq (s : State) : s.redrawKeyStore.hostq = s.hostq := rfl
@[simp] theorem redrawKeyStore_resp (s : State) : s.redrawKeyStore.resp = s.resp := rfl
@[simp] theorem redrawKeyStore_mem (s : State) : s.redrawKeyStore.mem = s.mem := rfl

@[simp] theorem discardCall_platform (s : State) : s.discardCall.platform = s.platform := rfl
@[simp] theorem discardCall_keyin (s : State) : s.discardCall.keyin = s.keyin := rfl
@[simp] theorem discardCall_din (s : State) : s.discardCall.din = s.din := rfl
@[simp] theorem discardCall_dout (s : State) : s.discardCall.dout = s.dout := rfl
@[simp] theorem discardCall_key (s : State) : s.discardCall.key = s.key := rfl
@[simp] theorem discardCall_eks (s : State) : s.discardCall.eks = s.eks := rfl
@[simp] theorem discardCall_dks (s : State) : s.discardCall.dks = s.dks := rfl
@[simp] theorem discardCall_k (s : State) : s.discardCall.k = s.k := rfl
@[simp] theorem discardCall_t (s : State) : s.discardCall.t = s.t := rfl
@[simp] theorem discardCall_u (s : State) : s.discardCall.u = s.u := rfl
@[simp] theorem discardCall_status (s : State) : s.discardCall.status = s.status := rfl
@[simp] theorem discardCall_errcode (s : State) : s.discardCall.errcode = s.errcode := rfl
@[simp] theorem discardCall_errinfo (s : State) : s.discardCall.errinfo = s.errinfo := rfl
@[simp] theorem discardCall_src (s : State) : s.discardCall.src = s.src := rfl
@[simp] theorem discardCall_dst (s : State) : s.discardCall.dst = s.dst := rfl
@[simp] theorem discardCall_len (s : State) : s.discardCall.len = s.len := rfl
@[simp] theorem discardCall_hint (s : State) : s.discardCall.hint = s.hint := rfl
@[simp] theorem discardCall_phase (s : State) : s.discardCall.phase = s.phase := rfl
@[simp] theorem discardCall_rnd (s : State) : s.discardCall.rnd = s.rnd := rfl
@[simp] theorem discardCall_blkDir (s : State) : s.discardCall.blkDir = s.blkDir := rfl
@[simp] theorem discardCall_workers (s : State) : s.discardCall.workers = [] := rfl
@[simp] theorem discardCall_useq (s : State) : s.discardCall.useq = s.useq := rfl
@[simp] theorem discardCall_sched (s : State) : s.discardCall.sched = s.sched := rfl
@[simp] theorem discardCall_hostq (s : State) : s.discardCall.hostq = s.hostq := rfl
@[simp] theorem discardCall_resp (s : State) : s.discardCall.resp = s.resp := rfl
@[simp] theorem discardCall_mem (s : State) : s.discardCall.mem = s.mem := rfl

@[simp] theorem writeReg_platform (s : State) (r : Reg) (v : Block) : (s.writeReg r v).platform = s.platform := by cases r <;> rfl
@[simp] theorem writeReg_status (s : State) (r : Reg) (v : Block) : (s.writeReg r v).status = s.status := by cases r <;> rfl
@[simp] theorem writeReg_errcode (s : State) (r : Reg) (v : Block) : (s.writeReg r v).errcode = s.errcode := by cases r <;> rfl
@[simp] theorem writeReg_errinfo (s : State) (r : Reg) (v : Block) : (s.writeReg r v).errinfo = s.errinfo := by cases r <;> rfl
@[simp] theorem writeReg_src (s : State) (r : Reg) (v : Block) : (s.writeReg r v).src = s.src := by cases r <;> rfl
@[simp] theorem writeReg_dst (s : State) (r : Reg) (v : Block) : (s.writeReg r v).dst = s.dst := by cases r <;> rfl
@[simp] theorem writeReg_len (s : State) (r : Reg) (v : Block) : (s.writeReg r v).len = s.len := by cases r <;> rfl
@[simp] theorem writeReg_hint (s : State) (r : Reg) (v : Block) : (s.writeReg r v).hint = s.hint := by cases r <;> rfl
@[simp] theorem writeReg_phase (s : State) (r : Reg) (v : Block) : (s.writeReg r v).phase = s.phase := by cases r <;> rfl
@[simp] theorem writeReg_rnd (s : State) (r : Reg) (v : Block) : (s.writeReg r v).rnd = s.rnd := by cases r <;> rfl
@[simp] theorem writeReg_blkDir (s : State) (r : Reg) (v : Block) : (s.writeReg r v).blkDir = s.blkDir := by cases r <;> rfl
@[simp] theorem writeReg_dir (s : State) (r : Reg) (v : Block) : (s.writeReg r v).dir = s.dir := by cases r <;> rfl
@[simp] theorem writeReg_nblk (s : State) (r : Reg) (v : Block) : (s.writeReg r v).nblk = s.nblk := by cases r <;> rfl
@[simp] theorem writeReg_wcount (s : State) (r : Reg) (v : Block) : (s.writeReg r v).wcount = s.wcount := by cases r <;> rfl
@[simp] theorem writeReg_base (s : State) (r : Reg) (v : Block) : (s.writeReg r v).base = s.base := by cases r <;> rfl
@[simp] theorem writeReg_extra (s : State) (r : Reg) (v : Block) : (s.writeReg r v).extra = s.extra := by cases r <;> rfl
@[simp] theorem writeReg_workers (s : State) (r : Reg) (v : Block) : (s.writeReg r v).workers = s.workers := by cases r <;> rfl
@[simp] theorem writeReg_useq (s : State) (r : Reg) (v : Block) : (s.writeReg r v).useq = s.useq := by cases r <;> rfl
@[simp] theorem writeReg_sched (s : State) (r : Reg) (v : Block) : (s.writeReg r v).sched = s.sched := by cases r <;> rfl
@[simp] theorem writeReg_hostq (s : State) (r : Reg) (v : Block) : (s.writeReg r v).hostq = s.hostq := by cases r <;> rfl
@[simp] theorem writeReg_resp (s : State) (r : Reg) (v : Block) : (s.writeReg r v).resp = s.resp := by cases r <;> rfl
@[simp] theorem writeReg_mem (s : State) (r : Reg) (v : Block) : (s.writeReg r v).mem = s.mem := by cases r <;> rfl
@[simp] theorem writeReg_freeCount (s : State) (r : Reg) (v : Block) : (s.writeReg r v).freeCount = s.freeCount := by cases r <;> rfl

end Sys2Proof.Laws
end

