-- ==== Sys2Proof/Laws/Registers.lean ====
section
/-! SUPPORT. Laws of the 128-bit registers: a read after a write, and what a write leaves alone. -/

namespace Sys2Proof.Laws

open Sys2Proof.Machine

theorem readReg_writeReg_same (s : State) (r : Reg) (v : Block) (h : sparseWf unwrittenS s.sreg = true) :
    (s.writeReg r v).readReg r = v := by
  cases r with
  | s j => exact sparseGet_put_same h
  | eks i => simp [State.writeReg, State.readReg, Vector.get_eq_getElem]
  | dks i => simp [State.writeReg, State.readReg, Vector.get_eq_getElem]
  | _ => rfl

theorem readReg_writeReg_other (s : State) (r r' : Reg) (v : Block) (h : r' ≠ r) :
    (s.writeReg r v).readReg r' = s.readReg r' := by
  cases r <;> cases r' <;>
    first
    | rfl
    | exact absurd rfl h
    | (rename_i i j
       have hne : i ≠ j := fun e => h (by rw [e])
       first
       | exact sparseGet_put_other (Ne.symm hne)
       | (have hv : i.val ≠ j.val := fun e => hne (Fin.ext e)
          simp [State.writeReg, State.readReg, Vector.get_eq_getElem, hv]))

theorem sameButRegs_writeReg (s : State) (r : Reg) (v : Block) : s.SameButRegs (s.writeReg r v) := by
  cases r <;> rfl

theorem sregWf_writeReg (s : State) (r : Reg) (v : Block) (h : sparseWf unwrittenS s.sreg = true) :
    sparseWf unwrittenS (s.writeReg r v).sreg = true := by
  cases r <;> first | exact h | exact sparseWf_put h

@[simp] theorem readS_writeS_same (s : State) (j : Nat) (v : Block) (h : sparseWf unwrittenS s.sreg = true) :
    (s.writeS j v).readS j = v := sparseGet_put_same h

theorem sregWf_redrawWorkerBlocks (c n : Nat) {m : List (Nat × Block)} (h : sparseWf unwrittenS m = true) :
    sparseWf unwrittenS (redrawWorkerBlocks c n m) = true := by
  induction n with
  | zero => exact h
  | succ n ih =>
    simp only [redrawWorkerBlocks, List.range_succ, List.foldl_append] at ih ⊢
    exact sparseWf_put ih

/-- What the worker registers hold after the redraw: a free value each below `n`, the old value from there up. -/
theorem sparseGet_redrawWorkerBlocks (c n j : Nat) {m : List (Nat × Block)} (h : sparseWf unwrittenS m = true) :
    sparseGet unwrittenS (redrawWorkerBlocks c n m) j =
      if j < n then Config.freeBlock (c + j) else sparseGet unwrittenS m j := by
  induction n with
  | zero => rfl
  | succ n ih =>
    have hwf := sregWf_redrawWorkerBlocks c n h
    simp only [redrawWorkerBlocks, List.range_succ, List.foldl_append] at ih hwf ⊢
    simp only [List.foldl_cons, List.foldl_nil, sparseGet_put hwf, ih]
    by_cases e : j = n
    · simp [e]
    · by_cases l : j < n
      · simp [e, l, Nat.lt_succ_of_lt l]
      · simp [e, l, show ¬ j < n + 1 by omega]

theorem sregWf_discardCall (s : State) (h : sparseWf unwrittenS s.sreg = true) :
    sparseWf unwrittenS s.discardCall.sreg = true := sregWf_redrawWorkerBlocks _ _ h

theorem readS_discardCall (s : State) (j : Nat) (h : sparseWf unwrittenS s.sreg = true) :
    s.discardCall.readS j = if j < s.workers.length then Config.freeBlock (s.freeCount + j) else s.readS j :=
  sparseGet_redrawWorkerBlocks _ _ _ h

theorem readS_writeS_other (s : State) (j i : Nat) (v : Block) (h : i ≠ j) : (s.writeS j v).readS i = s.readS i :=
  sparseGet_put_other h

end Sys2Proof.Laws
end

