-- ==== Sys2Proof/Laws/Sequencer.lean ====
section
/-! SUPPORT. What the micro-operations and the rows of the sequencer do: an issued primitive is executed as itself, one lemma
for each kind of row, the steps of `runSeq`, and the join. -/

namespace Sys2Proof.Laws

open Sys2Proof.Machine

/-- A well-formed primitive travels as a word that decodes to it (30_encoding R95). -/
theorem issue_decodes (i : Instr) (hp : isPrim i = true) (hw : i.wf 0 = true) :
    ∃ w r, issue i = .prim w r ∧ decodePrim w r = .ok i := by
  cases i with
  | aeskeygenassist d a imm8 =>
    refine ⟨_, _, rfl, ?_⟩
    have e1 : BitVec.extractLsb' 0 4 (primWord 0x3 imm8) = 0x3#4 := by
      unfold primWord; rw [BitVec.extractLsb'_append_eq_right]; rfl
    have e2 : BitVec.extractLsb' 4 8 (primWord 0x3 imm8) = imm8 := by
      unfold primWord; rw [BitVec.extractLsb'_append_eq_left]
    unfold decodePrim selectPrim
    simp only
    rw [if_pos e1, e2]
    exact if_pos hw
  | construct => cases hp
  | encrypt m => cases hp
  | decrypt m => cases hp
  | encb => cases hp
  | decb => cases hp
  | destroy => cases hp
  | crread n => cases hp
  | crwrite n v => cases hp
  | ldblk j a => exact ⟨_, _, rfl, rfl⟩
  | stblk a j => exact ⟨_, _, rfl, rfl⟩
  | pxor d a b => exact ⟨_, _, rfl, if_pos hw⟩
  | pslldq4 d a => exact ⟨_, _, rfl, if_pos hw⟩
  | pshufdFf d a => exact ⟨_, _, rfl, if_pos hw⟩
  | aesimc d a => exact ⟨_, _, rfl, if_pos hw⟩
  | aesenc d a rk => exact ⟨_, _, rfl, if_pos hw⟩
  | aesenclast d a rk => exact ⟨_, _, rfl, if_pos hw⟩
  | aesdec d a rk => exact ⟨_, _, rfl, if_pos hw⟩
  | aesdeclast d a rk => exact ⟨_, _, rfl, if_pos hw⟩

/-- The datapath executes a primitive as `exec` does. -/
theorem datapath_eq_exec (i : Instr) (s : State) (hp : isPrim i = true) : datapath i s = exec i s := by
  cases i <;> first | rfl | cases hp

/-- An issued primitive is executed as itself inside a row. -/
theorem doMicroOp_issue (i : Instr) (s : State) (hp : isPrim i = true) (hw : i.wf 0 = true) :
    doMicroOp (issue i) s = exec i s := by
  obtain ⟨w, r, hi, hd⟩ := issue_decodes i hp hw
  rw [hi, ← datapath_eq_exec i s hp]
  simp only [doMicroOp, hd]

/-- An issued primitive is executed by `step` as an instruction. -/
theorem stepMicroOp_issue (i : Instr) (s : State) (hp : isPrim i = true) (hw : i.wf 0 = true) :
    stepMicroOp (issue i) s = exec i s := by
  obtain ⟨w, r, hi, hd⟩ := issue_decodes i hp hw
  rw [hi]
  simp only [stepMicroOp, hd]

/-- `step` does a micro-operation as the sequencer does. -/
theorem stepMicroOp_eq (op : MicroOp) (s : State) : stepMicroOp op s = doMicroOp op s := by
  cases op with
  | prim w r =>
    simp only [stepMicroOp, doMicroOp]
    cases hd : decodePrim w r with
    | error e => rfl
    | ok i =>
      have : isPrim i = true := by
        obtain ⟨hs, -⟩ := decodePrim_ok hd
        rcases selectPrim_cases hs with ⟨-, e⟩ | ⟨-, h⟩
        · subst e; rfl
        · rcases h with h | h | h | h | h | h | h | h | h | h <;> (obtain ⟨-, e⟩ := h; subst e; rfl)
      exact (datapath_eq_exec i s this).symm
  | _ => rfl

theorem runOps_append (xs ys : List MicroOp) (s t : State) (h : runOps xs s = .next t) :
    runOps (xs ++ ys) s = runOps ys t := by
  induction xs generalizing s with
  | nil => cases h; rfl
  | cons x xs ih =>
    simp only [runOps, List.cons_append] at h ⊢
    cases hx : doMicroOp x s with
    | next s' => rw [hx] at h; exact ih s' h
    | fault f => rw [hx] at h; cases h
    | refused f => rw [hx] at h; cases h

theorem runOps_issue (i : Instr) (ops : List MicroOp) {s t : State} (hp : isPrim i = true) (hw : i.wf 0 = true)
    (h : exec i s = .next t) : runOps (issue i :: ops) s = runOps ops t := by
  simp only [runOps, doMicroOp_issue i s hp hw, h]

/-- The assist and the broadcast leave the assisted dword in all columns of `T` (41_keyschedule R173, steps 1 and 2). -/
theorem runOps_assist (rc : Byte) (s : State) :
    runOps [issue (.aeskeygenassist .t .k rc), issue (.pshufdFf .t .t)] s =
      .next { s with t := pshufdFfOf (assistOf s.k rc) } := by
  rw [runOps_issue (.aeskeygenassist .t .k rc) _ rfl rfl rfl, runOps_issue (.pshufdFf .t .t) _ rfl rfl rfl]
  rfl

/-- One shift-and-xor fold (41_keyschedule R173, steps 3 to 5). -/
theorem runOps_fold (s : State) :
    runOps [issue (.pslldq4 .u .k), issue (.pxor .k .k .u)] s =
      .next { s with u := pslldq4Of s.k, k := pxorOf s.k (pslldq4Of s.k) } := by
  rw [runOps_issue (.pslldq4 .u .k) _ rfl rfl rfl, runOps_issue (.pxor .k .k .u) _ rfl rfl rfl]
  simp only [runOps, State.writeReg, State.readReg]

/-- The last exclusive or (41_keyschedule R173, step 6). -/
theorem runOps_lastXor (s : State) : runOps [issue (.pxor .k .k .t)] s = .next { s with k := pxorOf s.k s.t } := by
  rw [runOps_issue (.pxor .k .k .t) _ rfl rfl rfl]
  rfl

/-- The nine primitives of an expansion step leave `ks_step` in `K` (41_keyschedule R173), something in `T` and `U`, and nothing
else. -/
theorem runOps_ksStep (rc : Byte) (s : State) :
    ∃ t u, runOps (ksStepOps rc) s = .next { s with k := ksStep s.k rc, t := t, u := u } := by
  let k1 := pxorOf s.k (pslldq4Of s.k)
  refine ⟨pshufdFfOf (assistOf s.k rc), pslldq4Of (pxorOf k1 (pslldq4Of k1)), ?_⟩
  unfold ksStepOps
  refine (runOps_append [_, _] _ _ _ (runOps_assist rc s)).trans ?_
  refine (runOps_append [_, _] _ _ _ (runOps_fold _)).trans ?_
  refine (runOps_append [_, _] _ _ _ (runOps_fold _)).trans ?_
  refine (runOps_append [_, _] _ _ _ (runOps_fold _)).trans ?_
  refine (runOps_lastXor _).trans ?_
  simp only [ksStep, k1]

/-- One micro-step of `KS_FWD` after the first (41_keyschedule R172). -/
theorem runOps_ksFwdRow (i : Nat) (s : State) (hi : i ≠ 0) :
    ∃ t u, runOps (ksFwdRow i) s = .next
      { s with
        k := ksStep s.k (rcon i), t := t, u := u, eks := s.eks.set (Fin.ofNat 11 i) (ksStep s.k (rcon i))
        phase := if i < 10 then .ksFwd else .ksInv, rnd := if i < 10 then i + 1 else 0 } := by
  obtain ⟨t, u, h⟩ := runOps_ksStep (rcon i) s
  refine ⟨t, u, ?_⟩
  rw [ksFwdRow, if_neg hi, runOps_append _ _ _ _ h]
  split <;> rfl

/-- The first micro-step of `KS_FWD` (41_keyschedule R172). -/
theorem runOps_ksFwdRow_zero (s : State) :
    runOps (ksFwdRow 0) s = .next { s with k := s.key, eks := s.eks.set 0 s.key, phase := .ksFwd, rnd := 1 } := rfl

/-- The micro-steps of `KS_INV` before the last (41_keyschedule R174). -/
theorem runOps_ksInvRow_zero (s : State) :
    runOps (ksInvRow 0) s = .next { s with dks := s.dks.set 0 (s.eks.get 0), phase := .ksInv, rnd := 1 } := rfl

theorem runOps_ksInvRow (i : Nat) (s : State) (h0 : i ≠ 0) (hi : i < 10) :
    runOps (ksInvRow i) s = .next
      { s with
        dks := s.dks.set (Fin.ofNat 11 i) (invMixColumns (s.eks.get (Fin.ofNat 11 i))), phase := .ksInv, rnd := i + 1 } := by
  rw [ksInvRow, if_neg h0, if_pos hi]
  simp only [runOps]
  rw [doMicroOp_issue _ _ rfl rfl]
  rfl

/-- The last micro-step of `KS_INV` ends `CONSTRUCT` (44_facade R241). -/
theorem runOps_ksInvRow_last (s : State) :
    runOps (ksInvRow 10) s =
      .next ({ s with dks := s.dks.set 10 (s.eks.get 10), phase := .idle, rnd := 0 } : State).constructEnd := rfl

/-- What round `r` makes of a state of a block (42_blockcipher R192, R195). -/
def roundValue (s : State) (d : Dir) (r : Nat) (x : Block) : Block :=
  match d with
  | .enc =>
    if r = 0 then x ^^^ roundKey s.eks 0 else if r < 10 then aesencOf x (roundKey s.eks r)
    else aesenclastOf x (roundKey s.eks 10)
  | .dec =>
    if r = 0 then x ^^^ roundKey s.dks 10 else if r < 10 then aesdecOf x (roundKey s.dks (10 - r))
    else aesdeclastOf x (roundKey s.dks 0)

/-- A round is a well-formed primitive. -/
theorem roundPrim_ok (d : Dir) (j r : Nat) : isPrim (roundPrim d j r) = true ∧ (roundPrim d j r).wf 0 = true := by
  cases d <;> (unfold roundPrim; dsimp only; split; · exact ⟨rfl, rfl⟩) <;> (split <;> exact ⟨rfl, rfl⟩)

/-- A round puts its value in `S[j]`. -/
theorem exec_roundPrim (d : Dir) (j r : Nat) (s : State) :
    exec (roundPrim d j r) s = .next (s.writeS j (roundValue s d r (s.readS j))) := by
  cases d <;> (unfold roundPrim roundValue; dsimp only; split; · rfl) <;> (split <;> rfl)

/-- The eleven rounds are the block transform of R191, R194. -/
theorem rounds_eq (s : State) (d : Dir) (x : Block) :
    (List.range 11).foldl (fun x r => roundValue s d r x) x = s.blockOp d x := by
  cases d <;> rfl

/-- One micro-step of `BLK` before the last. -/
theorem runOps_blkRow (d : Dir) (r : Nat) (s : State) (hr : r < 10) :
    runOps (blkRow d r) s = .next { s.writeS 0 (roundValue s d r (s.readS 0)) with phase := .blk, rnd := r + 1 } := by
  rw [blkRow, if_pos hr]
  simp only [runOps]
  rw [doMicroOp_issue _ _ (roundPrim_ok d 0 r).1 (roundPrim_ok d 0 r).2, exec_roundPrim]
  rfl

/-- The last micro-step of `BLK` moves the block to `DOUT` and returns (42_blockcipher R193, R196). -/
theorem runOps_blkRow_last (d : Dir) (s : State) :
    runOps (blkRow d 10) s =
      .next (State.ret { s.writeS 0 (roundValue s d 10 (s.readS 0)) with
        dout := (s.writeS 0 (roundValue s d 10 (s.readS 0))).readS 0 }) := by
  rw [blkRow, if_neg (by decide)]
  simp only [runOps]
  rw [doMicroOp_issue _ _ (roundPrim_ok d 0 10).1 (roundPrim_ok d 0 10).2, exec_roundPrim]
  rfl

/-- A micro-step inside a command. -/
theorem runSeq_step {n : Nat} {s t : State} (hb : s.phase ≠ .idle ∧ s.phase ≠ .run)
    (h : runOps (seqRow s) s = .next t) : runSeq (n + 1) s = runSeq n t := by
  rw [runSeq]
  split
  · rename_i e; exact absurd e hb.1
  · rename_i e; exact absurd e hb.2
  · unfold microStep; rw [h]

/-- A command that has ended takes no further micro-step. -/
theorem runSeq_idle {n : Nat} {s : State} (h : s.phase = .idle) : runSeq n s = .next s := by
  cases n with
  | zero => rfl
  | succ n => rw [runSeq]; simp [h]

/-- Which worker the join names depends on the workers' statuses alone. -/
theorem firstFault_congr {ws ws' : List Worker} (h : ws.map (fun w => w.wstat) = ws'.map (fun w => w.wstat)) :
    firstFault ws = firstFault ws' := by
  have key (l : List Worker) : firstFault l = (l.map (fun w => w.wstat)).findIdx? (fun x => x == .fault) := by
    simp only [firstFault, List.findIdx?_map]; rfl
  rw [key, key, h]

/-- Everything the join can do. -/
theorem joinCall_cases (s : State) :
    firstFault s.workers = none ∧ s.joinCall = s.discardCall.ret ∨
      ∃ f, firstFault s.workers = some f ∧ s.joinCall = s.discardCall.raise .workerFailure (BitVec.ofNat 32 f) := by
  unfold State.joinCall
  cases h : firstFault s.workers with
  | none => exact .inl ⟨rfl, rfl⟩
  | some f => exact .inr ⟨f, rfl, rfl⟩

/-- Everything `STBLK` can do to memory. -/
theorem exec_stblk_mem {addr j : Nat} {s t : State} (h : exec (.stblk addr j) s = .next t) :
    t.mem = memWrite s.mem addr (s.readS j) ∨ t.mem = s.mem := by
  simp only [exec, execStblk] at h
  split at h
  · exact .inl (by rw [← Host.Outcome.next.inj h])
  · exact .inr (by rw [← Host.Outcome.next.inj h]; rfl)

end Sys2Proof.Laws
end

