-- ==== Sys2Proof/Laws/Workers.lean ====
section
/-! SUPPORT. Laws of the workers' bookkeeping: what each update of a worker, the dispatch and the join do to `Worker.Ok` and
`State.WorkersOk`. -/

namespace Sys2Proof.Laws

open Sys2Proof.Machine

theorem rangeLo_le_succ (base extra j : Nat) : rangeLo base extra j ≤ rangeLo base extra (j + 1) := by
  simp only [rangeLo, Nat.add_mul, Nat.one_mul]; omega

/-- The ranges of R213 end at the number of blocks. -/
theorem rangeLo_end (n W : Nat) (h : 1 ≤ W) : rangeLo (n / W) (n % W) W = n := by
  have hlt := Nat.mod_lt n h
  rw [rangeLo, Nat.min_eq_right (Nat.le_of_lt hlt)]
  exact Nat.div_add_mod n W

theorem freshWorker_ok (base extra j : Nat) : (freshWorker base extra j).Ok := by
  have := rangeLo_le_succ base extra j
  refine ⟨Nat.le_refl _, this, Nat.zero_le _, ?_, ?_⟩ <;> simp only [freshWorker] <;> split <;> simp <;> omega

theorem workerLoaded_ok {w : Worker} (h : w.Ok) : (workerLoaded w).Ok := ⟨h.1, h.2.1, Nat.zero_le _, h.2.2.2⟩

theorem workerRounded_ok {w : Worker} (h : w.Ok) : (workerRounded w).Ok := by
  unfold workerRounded
  split
  · exact ⟨h.1, h.2.1, by assumption, h.2.2.2⟩
  · exact h

theorem workerStored_ok {w : Worker} (h : w.Ok) (hr : w.wstat = .run) : (workerStored w).Ok := by
  have hlt := h.2.2.2.1 hr
  have hlo := h.1
  refine ⟨?_, ?_, Nat.zero_le _, ?_, ?_⟩ <;> simp only [workerStored] <;> (try split) <;> (try simp) <;> omega

/-- A change of one worker that keeps its range and its bookkeeping keeps the assignment. -/
theorem workersOk_modify {s t : State} {j : Nat} {f : Worker → Worker} (hs : s.WorkersOk)
    (hf : ∀ w, w.Ok → (f w).Ok ∧ (f w).lo = w.lo ∧ (f w).hi = w.hi) (hw : t.workers = s.workers.modify j f)
    (hb : t.base = s.base) (he : t.extra = s.extra) (hc : t.wcount = s.wcount) (hn : t.nblk = s.nblk) : t.WorkersOk := by
  unfold State.WorkersOk
  rw [hw, hb, he, hc, hn]
  refine ⟨fun i w h => ?_, ?_⟩
  · rw [List.getElem?_modify] at h
    obtain ⟨v, hv, rfl⟩ := Option.map_eq_some_iff.1 h
    obtain ⟨hok, hlo, hhi⟩ := hs.1 i v hv
    split
    · obtain ⟨h1, h2, h3⟩ := hf v hok
      exact ⟨h1, h2.trans hlo, h3.trans hhi⟩
    · exact ⟨hok, hlo, hhi⟩
  · rcases hs.2 with h | h
    · exact .inl (by simp [h])
    · exact .inr (by simpa using h)

/-- Bookkeeping on worker `j` keeps the assignment, if it keeps a running worker's range and bookkeeping. -/
theorem workersOk_updateWorker {s : State} (j : Nat) {f : Worker → Worker} (hs : s.WorkersOk)
    (hf : ∀ w, w.Ok → w.wstat = .run → (f w).Ok ∧ (f w).lo = w.lo ∧ (f w).hi = w.hi) : (s.updateWorker j f).WorkersOk := by
  refine workersOk_modify hs (fun w h => ?_) rfl rfl rfl rfl rfl
  unfold ifRunning
  split
  · exact hf w h ‹_›
  · exact ⟨h, rfl, rfl⟩

theorem workersOk_faultWorker {s : State} (j : Nat) (hs : s.WorkersOk) : (s.faultWorker j).WorkersOk :=
  workersOk_modify (f := fun w => { w with wstat := .fault }) hs
    (fun _ h => ⟨⟨h.1, h.2.1, h.2.2.1, fun e => (by cases e), fun e => (by cases e)⟩, rfl, rfl⟩) rfl rfl rfl rfl rfl

theorem workersOk_dispatchCall (s : State) : s.dispatchCall.WorkersOk := by
  refine ⟨fun j w h => ?_, .inr ⟨by simp [State.dispatchCall], rangeLo_end _ _ (Nat.le_max_left _ _)⟩⟩
  simp only [State.dispatchCall, List.getElem?_map] at h
  obtain ⟨i, hi, rfl⟩ := Option.map_eq_some_iff.1 h
  obtain ⟨-, rfl⟩ := List.getElem?_eq_some_iff.1 hi
  exact ⟨by simpa using freshWorker_ok _ _ _, by simp [freshWorker, State.dispatchCall], by simp [freshWorker, State.dispatchCall]⟩

/-- No worker, no assignment to keep: after the join and after a reset. -/
theorem workersOk_nil {s : State} (h : s.workers = []) : s.WorkersOk := ⟨fun j w hw => by simp [h] at hw, .inl h⟩

end Sys2Proof.Laws
end

