-- ==== Sys2Proof/Tests/Slice0.lean ====
section
/-! SUPPORT. Tests of one step on small states, with expected values from spec/95_test_vectors.md (V..) and the rules; smoke
tests of WellFormed; and, for every obligation that has hypotheses, concrete values that meet them. -/

namespace Sys2Proof.Tests

set_option Elab.async false

open Sys2Proof.Machine

-- Helpers

/-- A byte-string literal `h"..."` (00_scope R11): the first pair of digits is byte 0. -/
def hex (n : Nat) : Block := ofBytes fun i => BitVec.ofNat 8 (n >>> (8 * (15 - i)))

/-- The next state of an answer. -/
def nextOf : Result → Option State
  | .next s => some s
  | .fault _ => none
  | .refused _ => none

/-- The refusal of an answer. -/
def refusedOf : Result → Option Refusal
  | .next _ => none
  | .fault _ => none
  | .refused r => some r

/-- Whether an answer is a fault. -/
def faults : Result → Bool
  | .next _ => false
  | .fault _ => true
  | .refused _ => false

/-- What a decoder answers with, when it rejects. -/
def errorOf : Except DecodeError Instr → Option DecodeError
  | .ok _ => none
  | .error e => some e

theorem exists_next {r : Result} (h : (nextOf r).isSome = true) : ∃ t, r = .next t := by
  cases r with
  | next t => exact ⟨t, rfl⟩
  | fault f => cases h
  | refused f => cases h

/-- The schedules of V10. -/
def eksV10 : Schedule :=
  #v[hex 0x000102030405060708090a0b0c0d0e0f, hex 0xd6aa74fdd2af72fadaa678f1d6ab76fe, hex 0xb692cf0b643dbdf1be9bc5006830b3fe,
     hex 0xb6ff744ed2c2c9bf6c590cbf0469bf41, hex 0x47f7f7bc95353e03f96c32bcfd058dfd, hex 0x3caaa3e8a99f9deb50f3af57adf622aa,
     hex 0x5e390f7df7a69296a7553dc10aa31f6b, hex 0x14f9701ae35fe28c440adf4d4ea9c026, hex 0x47438735a41c65b9e016baf4aebf7ad2,
     hex 0x549932d1f08557681093ed9cbe2c974e, hex 0x13111d7fe3944a17f307a78b4d2b30c5]

def dksV10 : Schedule :=
  #v[hex 0x000102030405060708090a0b0c0d0e0f, hex 0x8c56dff0825dd3f9805ad3fc8659d7fd, hex 0xa0db02992286d160a2dc029c2485d561,
     hex 0xc7c6e391e54032f1479c306d6319e50c, hex 0xa8a2f5044de2c7f50a7ef79869671294, hex 0x2ec410276326d7d26958204a003f32de,
     hex 0x72e3098d11c5de5f789dfe1578a2cccb, hex 0x8d82fc749c47222be4dadc3e9c7810f5, hex 0x1362a4638f2586486bff5a76f7874a83,
     hex 0x13aa29be9c8faff6f770f58000f7bf03, hex 0x13111d7fe3944a17f307a78b4d2b30c5]

/-- Just after reset. -/
def fresh : State := State.reset

/-- Just after reset, on a platform without the instruction set. -/
def unsupported : State := { fresh with platform := { fresh.platform with hwcap := false } }

/-- A keyed core (V10) on the platform of program P2. -/
def ready : State :=
  { fresh with
    platform := { aw := 64, regions := [⟨0x1000, 0x3000⟩], hwcap := true, lenPolicy := .fail }
    key := hex 0x000102030405060708090a0b0c0d0e0f, eks := eksV10, dks := dksV10, status := 1 }

/-- `ready` with the call of P2: four blocks from 0x1000 to 0x2000, three workers. -/
def call : State := { ready with src := 0x1000, dst := 0x2000, len := 0x40, hint := 3 }

/-- A call whose last block lies past the platform's memory (P4 in shape): block 1 of 2, worker 1 of 2. -/
def badCall : State := { ready with src := 0x1000, dst := 0x3ff0, len := 0x20, hint := 2 }

/-- Worker 0 of one is about to store block 0. -/
def storing : State :=
  { call with phase := .run, workers := [⟨0, 4, 0, 10, .run, .store⟩] }

/-- Two workers, the second in `FAULT`, and the join in hand. -/
def joining : State :=
  { call with phase := .join, useq := [.join], workers := [⟨0, 2, 2, 0, .done, .load⟩, ⟨2, 4, 3, 0, .fault, .load⟩] }

/-- Two workers that have ended, and the join in hand. -/
def joiningDone : State :=
  { call with phase := .join, useq := [.join], workers := [⟨0, 2, 2, 0, .done, .load⟩, ⟨2, 4, 4, 0, .done, .load⟩] }

/-- The operands of V25. -/
def vA : Block := hex 0x5d47535d726f74636556747365545b7b
def vK : Block := hex 0x5d6e6f726575475b2979616853286948
def v25 : State := { fresh with k := vA, t := vK }

-- WellFormed: each check refuses an ill-formed term

theorem test_wf_crwrite_payload :
    Instr.wf 64 (.crwrite .src (2 ^ 64)) = false ∧ Instr.wf 64 (.crwrite .cmd (2 ^ 32)) = false ∧
    Instr.wf 64 (.crwrite .keyin (2 ^ 128)) = false ∧ Instr.wf 32 (.crwrite .len (2 ^ 32)) = false ∧
    Instr.wf 64 (.crwrite .status (2 ^ 32)) = false ∧ Instr.wf 64 (.crwrite .errcode (2 ^ 32)) = false ∧
    Instr.wf 64 (.crwrite .errinfo (2 ^ 32)) = false ∧ Instr.wf 64 (.crwrite .dst (2 ^ 64)) = false ∧
    Instr.wf 64 (.crwrite .workers (2 ^ 32)) = false ∧ Instr.wf 64 (.crwrite .din (2 ^ 128)) = false ∧
    Instr.wf 64 (.crwrite .dout (2 ^ 128)) = false ∧ Instr.wf 64 (.crwrite .dst (2 ^ 64 - 1)) = true := by decide

theorem test_wf_destination :
    Instr.wf 64 (.pxor .key .k .t) = false ∧ Instr.wf 64 (.pslldq4 (.eks 1) .k) = false ∧
    Instr.wf 64 (.pshufdFf .dout .k) = false ∧ Instr.wf 64 (.aeskeygenassist .keyin .k 1) = false ∧
    Instr.wf 64 (.aesimc .din .k) = false ∧ Instr.wf 64 (.aesenc .key .k .t) = false ∧
    Instr.wf 64 (.aesenclast .key .k .t) = false ∧ Instr.wf 64 (.aesdec .key .k .t) = false ∧
    Instr.wf 64 (.aesdeclast .key .k .t) = false := by decide

theorem test_wf_first_source :
    Instr.wf 64 (.pxor .k .key .t) = false ∧ Instr.wf 64 (.pslldq4 .k .din) = false ∧
    Instr.wf 64 (.pshufdFf .k .dout) = false ∧ Instr.wf 64 (.aeskeygenassist .k .keyin 1) = false ∧
    Instr.wf 64 (.aesimc .k .key) = false ∧ Instr.wf 64 (.aesenc .k .key .t) = false ∧
    Instr.wf 64 (.aesenclast .k .key .t) = false ∧ Instr.wf 64 (.aesdec .k .key .t) = false ∧
    Instr.wf 64 (.aesdeclast .k .key .t) = false := by decide

theorem test_wf_second_source :
    Instr.wf 64 (.pxor .k .t .key) = false ∧ Instr.wf 64 (.aesenc .k .t .din) = false ∧
    Instr.wf 64 (.aesenclast .k .t .dout) = false ∧ Instr.wf 64 (.aesdec .k .t .keyin) = false ∧
    Instr.wf 64 (.aesdeclast .k .t .key) = false := by decide

-- Decoding: words written out from 30_encoding R91 to R95 (V29, V60, V63)

/-- `rsv` 31:16, `mode` 15:8, `op` 7:0 (R91, R92). -/
theorem test_decode_commands :
    (decodeCommand 0b0000000000000000_00000000_00000001#32).toOption = some .construct ∧
    (decodeCommand 0b0000000000000000_00000000_00000010#32).toOption = some (.encrypt .ecb) ∧
    (decodeCommand 0b0000000000000000_00000000_00000011#32).toOption = some (.decrypt .ecb) ∧
    (decodeCommand 0b0000000000000000_00000000_00000100#32).toOption = some .encb ∧
    (decodeCommand 0b0000000000000000_00000000_00000101#32).toOption = some .decb ∧
    (decodeCommand 0b0000000000000000_00000000_00000110#32).toOption = some .destroy := by decide

/-- The illegal rows of V60. -/
theorem test_decode_illegal_commands :
    [0x00000000#32, 0x00000007#32, 0x000000ff#32, 0x00000102#32, 0x0000ff03#32, 0x00000101#32, 0x00010002#32,
      0x80000004#32, 0xffffffff#32].all (fun w => errorOf (decodeCommand w) == some (.illegalCommand w)) = true := by
  decide +kernel

/-- `w` in bit 4, `n` in bits 3:0 (R94, V63). -/
theorem test_decode_reads :
    (decodeAccess 64 0b0_0000#5 0).toOption = some (.crread .cmd) ∧
    (decodeAccess 64 0b0_0001#5 0).toOption = some (.crread .status) ∧
    (decodeAccess 64 0b0_0010#5 0).toOption = some (.crread .errcode) ∧
    (decodeAccess 64 0b0_0011#5 0).toOption = some (.crread .errinfo) ∧
    (decodeAccess 64 0b0_0100#5 0).toOption = some (.crread .src) ∧
    (decodeAccess 64 0b0_0101#5 0).toOption = some (.crread .dst) ∧
    (decodeAccess 64 0b0_0110#5 0).toOption = some (.crread .len) ∧
    (decodeAccess 64 0b0_0111#5 0).toOption = some (.crread .workers) ∧
    (decodeAccess 64 0b0_1000#5 0).toOption = some (.crread .keyin) ∧
    (decodeAccess 64 0b0_1001#5 0).toOption = some (.crread .din) ∧
    (decodeAccess 64 0b0_1010#5 0).toOption = some (.crread .dout) ∧
    errorOf (decodeAccess 64 0b0_1011#5 0) = some (.reservedRegister 11) ∧
    errorOf (decodeAccess 64 0b0_0110#5 1) = some .badPayload := by decide

/-- The payload is exactly the register's width (R94). -/
theorem test_decode_writes :
    (decodeAccess 64 0b1_0000#5 0x00000002).toOption = some (.crwrite .cmd 2) ∧
    (decodeAccess 64 0b1_0110#5 0x40).toOption = some (.crwrite .len 0x40) ∧
    (decodeAccess 64 0b1_0100#5 0xffffffffffffffff).toOption = some (.crwrite .src 0xffffffffffffffff) ∧
    errorOf (decodeAccess 64 0b1_0100#5 0x10000000000000000) = some .badPayload ∧
    errorOf (decodeAccess 64 0b1_0111#5 0x100000000) = some .badPayload ∧
    errorOf (decodeAccess 64 0b1_1111#5 0) = some (.reservedRegister 15) := by decide

/-- `imm8` in bits 11:4, `uop` in bits 3:0 (R95, V29). -/
theorem test_decode_primitives :
    (decodePrim 0b00000000_0000#12 { Route.zero with d := .k, a := .k, b := .u }).toOption = some (.pxor .k .k .u) ∧
    (decodePrim 0b00000000_0001#12 { Route.zero with d := .u, a := .k }).toOption = some (.pslldq4 .u .k) ∧
    (decodePrim 0b00000000_0010#12 { Route.zero with d := .t, a := .t }).toOption = some (.pshufdFf .t .t) ∧
    (decodePrim 0b00110110_0011#12 { Route.zero with d := .t, a := .k }).toOption = some (.aeskeygenassist .t .k 0x36) ∧
    (decodePrim 0b00000000_0100#12 { Route.zero with d := .dks 9, a := .eks 9 }).toOption = some (.aesimc (.dks 9) (.eks 9)) ∧
    (decodePrim 0b00000000_0101#12 { Route.zero with b := .eks 1 }).toOption = some (.aesenc (.s 0) (.s 0) (.eks 1)) ∧
    (decodePrim 0b00000000_0110#12 { Route.zero with b := .eks 10 }).toOption = some (.aesenclast (.s 0) (.s 0) (.eks 10)) ∧
    (decodePrim 0b00000000_0111#12 { Route.zero with b := .dks 9 }).toOption = some (.aesdec (.s 0) (.s 0) (.dks 9)) ∧
    (decodePrim 0b00000000_1000#12 { Route.zero with b := .dks 0 }).toOption = some (.aesdeclast (.s 0) (.s 0) (.dks 0)) ∧
    (decodePrim 0b00000000_1001#12 { Route.zero with j := 2, addr := 0x1003 }).toOption = some (.ldblk 2 0x1003) ∧
    (decodePrim 0b00000000_1010#12 { Route.zero with j := 2, addr := 0x2003 }).toOption = some (.stblk 0x2003 2) := by
  decide +kernel

/-- Unused selectors, and an `imm8` where there is none (R99). -/
theorem test_decode_reserved_selectors :
    [0x00b#12, 0x00c#12, 0x00d#12, 0x00e#12, 0x00f#12, 0x010#12, 0x01a#12].all
      (fun w => errorOf (decodePrim w Route.zero) == some (.reservedSelector w)) = true := by decide +kernel

theorem test_decode_bad_route : errorOf (decodePrim 0x000#12 { Route.zero with d := .key }) = some (.badRoute 0x000#12) := by
  decide

/-- Every row of the opcode table, with its operand bits zero, decodes to its own instruction. -/
theorem test_table_words :
    opcodeTable.all (fun r => ((decodeTableWord (match r.format with
      | .c => 32
      | .h => 8
      | .p => 16) r.value).map Instr.mnemonic) == some r.mnemonic) = true := by decide

/-- The next step runs a placed table word: a command, a register access, a primitive. -/
theorem test_fetch_word :
    (nextOf (step (fresh.withFetchWord 32 0x00000002))).map State.errcode = some 6 ∧
    (nextOf (step (fresh.withFetchWord 8 0b00001))).map State.resp = some (some (.register .status 0)) ∧
    (nextOf (step (fresh.withFetchWord 16 0x006))).map (fun t => t.readS 0) =
      some (hex 0x63636363636363636363636363636363) := by decide +kernel

-- Primitives (V25, V26, V28)

theorem test_pxor : (nextOf (exec (.pxor (.s 3) .k .t) v25)).map (fun t => t.readS 3) =
    some (hex 0x00293c2f171a33384c2f151b367c3233) := by decide +kernel

theorem test_pslldq4 : (nextOf (exec (.pslldq4 .k .k) v25)).map State.k =
    some (hex 0x000000005d47535d726f746365567473) := by decide +kernel

theorem test_pshufd : (nextOf (exec (.pshufdFf .u .k) v25)).map State.u =
    some (hex 0x65545b7b65545b7b65545b7b65545b7b) := by decide +kernel

theorem test_keygenassist : (nextOf (exec (.aeskeygenassist .u .k 0x1b) v25)).map State.u =
    some (hex 0x40a892fbb392fb404d2039213b39214d) := by decide +kernel

theorem test_aesimc : (nextOf (exec (.aesimc (.dks 9) .k) v25)).map (fun t => t.dks[9]) =
    some (hex 0xe5b3c3810a33182bc809b144666f7a62) := by decide +kernel

theorem test_aesenc : (nextOf (exec (.aesenc .k .k .t) v25)).map State.k =
    some (hex 0x95e5d7de584b108bc5a3db9f2f1c31a8) := by decide +kernel

theorem test_aesenclast : (nextOf (exec (.aesenclast .k .k .t) v25)).map State.k =
    some (hex 0x11c6fd5325c47e1764598c931e88fbc7) := by decide +kernel

theorem test_aesdec : (nextOf (exec (.aesdec .k .k .t) v25)).map State.k =
    some (hex 0x2a3930b75eb98eb58727eafa42c38a13) := by decide +kernel

theorem test_aesdeclast : (nextOf (exec (.aesdeclast .k .k .t) v25)).map State.k =
    some (hex 0xd093a5727b6310d4957f316bef91a3c5) := by decide +kernel

/-- V28: any alignment, the lowest address in byte 0. -/
theorem test_ldblk : (nextOf (exec (.ldblk 1 0x1003)
      { ready with mem := [(0x1004, 0x11), (0x1005, 0x22), (0x1012, 0xff), (0x1013, 0x77)] })).map (fun t => t.readS 1) =
    some (hex 0x001122000000000000000000000000ff) := by decide +kernel

/-- The last byte lies past the platform's memory: the worker faults and loads nothing. -/
theorem test_ldblk_not_admitted :
    let s := { storing with sreg := [(0, 5)] }
    (nextOf (exec (.ldblk 0 0x3ff1) s)).map (fun t => (t.readS 0, t.workers.map Worker.wstat)) = some (5, [.fault]) := by
  decide +kernel

/-- The example of 40_primitives R150. -/
theorem test_stblk : (nextOf (exec (.stblk 0x2000 0)
      { ready with sreg := [(0, hex 0x69c4e0d86a7b0430d8cdb78070b4c55a)] })).map
        (fun t => [0x1fff, 0x2000, 0x2001, 0x200f, 0x2010].map (memByte t.mem)) =
    some [0, 0x69, 0xc4, 0x5a, 0] := by decide +kernel

theorem test_stblk_not_admitted : (nextOf (exec (.stblk 0x3ff1 0) storing)).map
      (fun t => (t.mem, t.workers.map Worker.wstat)) = some ([], [.fault]) := by decide +kernel

-- Commands (V10, V30, V31, V50, V61, V62)

/-- The example of 44_facade R241 and V10. -/
theorem test_construct :
    (nextOf (exec .construct { fresh with keyin := hex 0x000102030405060708090a0b0c0d0e0f, status := 2, errcode := 6 })).map
        (fun t => (t.status, t.errcode, t.eks == eksV10, t.dks == dksV10)) = some (1, 0, true, true) := by decide +kernel

/-- V62 row 3: a keyed core without the instruction set reports `IllegalState`. -/
theorem test_construct_keyed :
    (nextOf (exec .construct { unsupported with status := 1 })).map (fun t => (t.status, t.errcode)) = some (3, 6) := by
  decide +kernel

theorem test_encb : (nextOf (exec .encb { ready with din := hex 0x00112233445566778899aabbccddeeff })).map State.dout =
    some (hex 0x69c4e0d86a7b0430d8cdb78070b4c55a) := by decide +kernel

theorem test_decb : (nextOf (exec .decb { ready with din := hex 0x69c4e0d86a7b0430d8cdb78070b4c55a })).map State.dout =
    some (hex 0x00112233445566778899aabbccddeeff) := by decide +kernel

/-- V50 row 2. -/
theorem test_encrypt_dispatch : (nextOf (exec (.encrypt .ecb) call)).map
      (fun t => (t.wcount, t.base, t.extra, t.workers.map fun w => (w.lo, w.hi))) =
    some (3, 1, 1, [(0, 2), (2, 3), (3, 4)]) := by decide +kernel

/-- V62 row 5. -/
theorem test_encrypt_length : (nextOf (exec (.encrypt .ecb) { ready with len := 0x28 })).map
      (fun t => (t.status, t.errcode)) = some (3, 2) := by decide +kernel

/-- V50 row 10: the largest hint. -/
theorem test_decrypt_dispatch : (nextOf (exec (.decrypt .ecb) { call with len := 0x20, hint := 0xffffffff })).map
      (fun t => (t.wcount, t.workers.map fun w => (w.lo, w.hi))) = some (2, [(0, 1), (1, 2)]) := by decide +kernel

/-- 20_memory R67: one byte of partial overlap. -/
theorem test_decrypt_overlap :
    refusedOf (exec (.decrypt .ecb) { call with src := 0x1000, dst := 0x103f }) = some .partialOverlap ∧
    (nextOf (exec (.decrypt .ecb) { call with src := 0x1000, dst := 0x1040 })).isSome = true ∧
    (nextOf (exec (.decrypt .ecb) { call with src := 0x1000, dst := 0x1000 })).isSome = true := by decide +kernel

theorem test_destroy : (nextOf (exec .destroy { ready with status := 3, errcode := 2 })).map
      (fun t => (t.status, t.errcode)) = some (0, 0) := by decide +kernel

theorem test_crread : (nextOf (exec (.crread .keyin) { fresh with keyin := 0x0f0e0d0c0b0a09080706050403020100 })).map
      State.resp = some (some (.register .keyin 0x0f0e0d0c0b0a09080706050403020100)) := by decide +kernel

/-- The example of 44_facade R254. -/
theorem test_crwrite_len : (nextOf (exec (.crwrite .len 0x40) fresh)).map State.len = some 0x40 := by decide +kernel

/-- V62 row 1. -/
theorem test_crwrite_illegal_command : (nextOf (exec (.crwrite .cmd 0x00000102) unsupported)).map
      (fun t => (t.status, t.errcode, t.errinfo)) = some (2, 5, 0) := by decide +kernel

/-- The host may not move while a command runs (U5). -/
theorem test_busy : refusedOf (exec (.crread .status) storing) = some .hostWhileBusy := by decide

/-- A host store needs bytes that exist. -/
theorem test_host_store :
    (nextOf (step { ready with hostq := [.store 0x1000 [1, 2]] })).map (fun t => t.mem) = some [(0x1000, 1), (0x1001, 2)] ∧
    faults (step { ready with hostq := [.store 0xfff [1, 2]] }) = true := by decide +kernel

/-- A host read answers the bytes (R317), and needs bytes that exist. -/
theorem test_host_load :
    (nextOf (step { ready with mem := [(0x1001, 2)], hostq := [.load 0x1000 3] })).map (fun t => (t.resp, t.mem)) =
      some (some (.memory 0x1000 [0, 2, 0]), [(0x1001, 2)]) ∧
    faults (step { ready with hostq := [.load 0xfff 2] }) = true := by decide +kernel

-- Hypotheses of the obligations are met

theorem wit_DecodeEncodeRoundTrip :
    Instr.wf 64 (.crwrite .src (2 ^ 64 - 1)) = true ∧ Instr.wf 1 (.crwrite .dst 1) = true ∧
    Instr.wf 64 (.aeskeygenassist .t .k 0xff) = true ∧ Instr.wf 64 (.ldblk 0 0) = true := by decide

theorem wit_EachWordHasOneMeaning :
    (decode 64 (.c 6)).toOption = some .destroy ∧ (decode 64 (.h 0b11010 (2 ^ 128 - 1))).toOption =
      some (.crwrite .dout (2 ^ 128 - 1)) ∧ (decode 64 (.p 0xff3 Route.zero)).toOption =
      some (.aeskeygenassist (.s 0) (.s 0) 0xff) := by decide

theorem wit_IllegalCommandWord :
    fresh.phase = .idle ∧ errorOf (decodeCommand 0) = some (.illegalCommand 0) ∧
    errorOf (decodeCommand 7) = some (.illegalCommand 7) := by decide

theorem wit_ReservedRegisterNumbers :
    let s := { fresh with hostq := [.access 0b01011 0] }
    s.Quiet ∧ s.hostq = .access (0#1 ++ 11#4) 0 :: [] ∧ 11 ≤ (11#4).toNat ∧ 11 ≤ (15#4).toNat ∧ fresh.phase = .idle := by
  refine ⟨⟨rfl, rfl⟩, ?_, ?_, ?_, rfl⟩ <;> decide

theorem wit_StepRunsHostAccess :
    let s := { fresh with hostq := [.access 0b10110 0x40] }
    s.Quiet ∧ (decodeAccess s.platform.aw 0b10110 0x40).toOption = some (.crwrite .len 0x40) ∧ fresh.Quiet ∧
      fresh.hostq = [] := by
  refine ⟨⟨rfl, rfl⟩, ?_, ⟨rfl, rfl⟩, rfl⟩; decide

theorem wit_StepRunsPrimitive :
    let s := { fresh with useq := [.prim 0x00a { Route.zero with addr := 0x1000 }] }
    s.useq = .prim 0x00a { Route.zero with addr := 0x1000 } :: [] ∧
      (decodePrim 0x00a { Route.zero with addr := 0x1000 }).toOption = some (.stblk 0x1000 0) := by decide

theorem wit_CommandWriteRunsCommand :
    fresh.phase = .idle ∧ (decodeCommand 1).toOption = some .construct ∧ (decodeCommand 6).toOption = some .destroy := by
  decide

theorem wit_HostWaitsWhileBusy :
    ¬ storing.Quiet ∧ (∃ t, step storing = .next t) ∧ storing.phase ≠ .idle ∧ isPrim (.crread .status) = false ∧
      isPrim .construct = false := by
  refine ⟨fun h => (by cases h.1), ⟨_, rfl⟩, by decide, rfl, rfl⟩

theorem wit_DataPrimitivesFrame :
    v25.MemOk ∧ ([.pxor .k .k .t, .pslldq4 .k .k, .pshufdFf .k .k, .aeskeygenassist .k .k 1, .aesimc .k .k, .aesenc .k .k .t,
      .aesenclast .k .k .t, .aesdec .k .k .t, .aesdeclast .k .k .t] : List Instr).all
      (fun i => (dataResult v25 i).isSome && (nextOf (exec i v25)).isSome) = true := by
  refine ⟨⟨rfl, rfl⟩, by decide +kernel⟩

/-- The last admitted address of a 64-bit space, and the first that is not. -/
theorem wit_LoadBlock :
    fresh.MemOk ∧ admitted fresh.platform (2 ^ 64 - 16) = true ∧ admitted fresh.platform (2 ^ 64 - 15) = false ∧
      storing.workers[0]? = some ⟨0, 4, 0, 10, .run, .store⟩ := by
  refine ⟨⟨rfl, rfl⟩, by decide +kernel, by decide +kernel, rfl⟩

/-- The last admitted address of a region, and the first that is not. -/
theorem wit_StoreBlock :
    storing.MemOk ∧ admitted storing.platform 0x3ff0 = true ∧ admitted storing.platform 0x3ff1 = false ∧
      admitted storing.platform 0x1000 = true ∧ admitted storing.platform 0xfff = false := by
  refine ⟨⟨rfl, rfl⟩, by decide +kernel, by decide +kernel, by decide +kernel, by decide +kernel⟩

theorem wit_OnlyStblkWritesMemory :
    (∀ addr j, Instr.encb ≠ .stblk addr j) ∧ ∃ t, exec .encb ready = .next t :=
  ⟨fun _ _ h => (by cases h), exists_next (by decide +kernel)⟩

theorem wit_StepKeepsMemoryForm : storing.MemOk ∧ ∃ t, step storing = .next t := ⟨⟨rfl, rfl⟩, ⟨_, rfl⟩⟩

theorem wit_RoundConstantsArePowers : 1 ≤ 1 ∧ 1 < 10 ∧ 1 ≤ 9 ∧ 9 < 10 := by decide

theorem wit_FieldInverse : (1 : Byte) ≠ 0 ∧ (0xff : Byte) ≠ 0 := by decide

theorem wit_ScheduleWordForm : 3 < 4 ∧ 4 ≤ 40 ∧ 40 < 44 ∧ 40 % 4 = 0 ∧ 4 ≤ 43 ∧ 43 < 44 ∧ 43 % 4 ≠ 0 := by decide

theorem wit_DecryptionSchedule : 1 ≤ 1 ∧ 1 ≤ 9 ∧ 9 ≤ 9 := by decide

theorem wit_ByteAndDwordIndices : 0 < 16 ∧ 15 < 16 ∧ 0 < 4 ∧ 3 < 4 ∧ 1 ≤ 1 ∧ 1 ≤ 3 := by decide

theorem wit_ConstructExpandsTheKey : fresh.phase = .idle ∧ fresh.keyed = false ∧ fresh.platform.hwcap = true := by decide

theorem wit_ConstructErrors :
    ready.phase = .idle ∧ ready.keyed = true ∧ unsupported.phase = .idle ∧ unsupported.keyed = false ∧
      unsupported.platform.hwcap = false := by decide

theorem ready_keyStore : ready.KeyStoreOk := by
  intro _
  exact ⟨by decide +kernel, by decide +kernel⟩

theorem wit_StepKeepsKeyStore : ready.KeyStoreInv ∧ ∃ t, step ready = .next t := ⟨⟨rfl, ready_keyStore⟩, ⟨_, rfl⟩⟩

theorem wit_OnlyLifeCycleCommandsWriteKeys :
    Instr.wf ready.platform.aw .destroy = true ∧ ∃ t, exec .destroy ready = .next t ∧ t.keyed ≠ ready.keyed :=
  ⟨rfl, _, rfl, by decide⟩

theorem wit_KeyStoreNotReadable : ready.phase = .idle := rfl

theorem wit_BlockCommands :
    ready.phase = .idle ∧ ready.MemOk ∧ ready.keyed = true ∧ fresh.phase = .idle ∧ fresh.MemOk ∧ fresh.keyed = false := by
  refine ⟨rfl, ⟨rfl, rfl⟩, rfl, rfl, ⟨rfl, rfl⟩, rfl⟩

theorem wit_HostAccesses : fresh.phase = .idle ∧ 2 ^ 64 - 1 < 2 ^ fresh.platform.aw := by decide

theorem storing_seq : storing.SeqOk := by
  intro op h
  cases h

theorem wit_CommandsKeepHostRegisters :
    isCommand (.encrypt .ecb) = true ∧ (∃ t, exec (.encrypt .ecb) call = .next t) ∧ storing.SeqOk ∧ storing.phase ≠ .idle ∧
      (storing.phase = .run → storing.useq = [] → storing.sched.head? ≠ some .reset) ∧ (∃ t, step storing = .next t) ∧
      joining.SeqOk ∧ joining.phase ≠ .idle ∧ (joining.phase = .run → joining.useq = [] → joining.sched.head? ≠ some .reset) ∧
      ∃ t, step joining = .next t :=
  ⟨rfl, exists_next (by decide +kernel), storing_seq, by decide, fun _ _ => by decide, ⟨_, rfl⟩, .inr rfl, by decide,
    fun _ _ => by decide, ⟨_, rfl⟩⟩

theorem wit_StepKeepsOutcomeRegisters : call.StatusOk ∧ ∃ t, step call = .next t := by
  refine ⟨⟨by decide, by decide, by decide, by decide, by decide⟩, ⟨_, rfl⟩⟩

theorem wit_StepKeepsWidthsAndPlatform : call.AddressesOk ∧ ∃ t, step call = .next t := by
  refine ⟨⟨by decide, by decide, by decide⟩, ⟨_, rfl⟩⟩

theorem wit_CallErrorsInOrder :
    fresh.keyed = false ∧
    (let s := { ready with len := 0x28 };
      s.phase = .idle ∧ s.keyed = true ∧ s.len % 16 ≠ 0 ∧ s.platform.lenPolicy = .fail) ∧
    (let s := { call with dst := 0x103f };
      s.phase = .idle ∧ s.keyed = true ∧ s.len % 16 = 0 ∧ 16 * (s.len / 16) ≠ 0 ∧ s.src ≠ s.dst ∧
      s.src < s.dst + 16 * (s.len / 16) ∧ s.dst < s.src + 16 * (s.len / 16)) := by decide

theorem wit_WorkerCountClamp : 1 ≤ 1 ∧ 1 < 2 ∧ clampWorkers 2 1 = 1 := by decide

/-- V50 row 2, at the ends of a range. -/
theorem wit_RangesPartitionTheBlocks :
    clampWorkers 3 4 = 3 ∧ rangeLo 1 1 0 ≤ 1 ∧ 1 < rangeLo 1 1 1 ∧ rangeLo 1 1 1 ≤ 2 ∧ 2 < rangeLo 1 1 2 := by decide

theorem call_legal : call.CallLegal := ⟨⟨rfl, rfl⟩, ⟨rfl, rfl⟩, rfl, by decide, by decide⟩

theorem call_admitted : ∀ i, i < call.callBlocks → call.blockAdmitted i = true := by
  have h : call.callBlocks = 4 := by decide
  rw [h]; decide +kernel

theorem wit_CallDispatchesItsWorkers :
    call.phase = .idle ∧ call.keyed = true ∧ call.badLength = false ∧
      callDefined call.src call.dst (16 * call.callBlocks) = true := by decide

/-- Any list of workers is one that no reset interrupts. -/
theorem wit_NoReset : call.NoReset ∧ badCall.NoReset ∧ State.NoReset { call with sched := [.worker 2, .worker 0] } := by
  refine ⟨?_, ?_, ?_⟩ <;> unfold State.NoReset <;> decide

theorem wit_CallTransformsTheBuffer : call.CallLegal ∧ call.NoReset ∧ ∀ i, i < call.callBlocks → call.blockAdmitted i = true :=
  ⟨call_legal, wit_NoReset.1, call_admitted⟩

theorem wit_CallReportsWorkerFailure :
    badCall.CallLegal ∧ badCall.NoReset ∧ 1 < badCall.callW ∧ badCall.workerFaults 1 ∧ ∀ j, j < 1 → ¬ badCall.workerFaults j := by
  refine ⟨⟨⟨rfl, rfl⟩, ⟨rfl, rfl⟩, rfl, by decide, by decide⟩, wit_NoReset.2.1, by decide,
    ⟨1, by decide +kernel⟩, ?_⟩
  intro j hj ⟨i, hlo, hhi, hi⟩
  obtain rfl : j = 0 := by omega
  have e : badCall.callLo (0 + 1) = 1 := by decide
  rw [e] at hhi
  obtain rfl : i = 0 := by omega
  exact absurd hi (by decide +kernel)

theorem wit_WorkerCountAndInterleavingInvisible :
    call.CallLegal ∧ call.NoReset ∧ (∀ c ∈ [Choice.worker 2, .worker 0], c ≠ .reset) ∧
      ∀ i, i < call.callBlocks → call.blockAdmitted i = true :=
  ⟨call_legal, wit_NoReset.1, by decide, call_admitted⟩

theorem wit_BufferRoundTrip :
    call.CallLegal ∧ call.NoReset ∧ call.KeyStoreInv ∧ call.len % 16 = 0 ∧ (∀ i, i < call.callBlocks → call.blockAdmitted i = true) ∧
      callDefined call.dst 0x3000 call.len = true ∧
      ∀ i, i < call.callBlocks → admitted call.platform (0x3000 + 16 * i) = true := by
  refine ⟨call_legal, wit_NoReset.1, ⟨rfl, ready_keyStore⟩, by decide, call_admitted, by decide, ?_⟩
  have h : call.callBlocks = 4 := by decide
  rw [h]; decide +kernel

theorem wit_WorkerWritesItsOwnRange :
    storing.phase = .run ∧ storing.MemOk ∧ storing.workers[0]? = some ⟨0, 4, 0, 10, .run, .store⟩ ∧ 0 ≤ 0 ∧ 0 < 4 ∧
      (storing.useq = [] → storing.sched.head? ≠ some .reset) ∧ storing.useq = [] ∧ (∃ t, step storing = .next t) ∧
      (let r := { storing with useq := workerRow storing 0, sched := [.reset] };
        (r.useq = [] → r.sched.head? ≠ some .reset) ∧ ∃ t, step r = .next t) := by
  refine ⟨rfl, ⟨rfl, rfl⟩, rfl, by decide, by decide, fun _ => by decide, rfl, ⟨_, rfl⟩, fun h => ?_,
    exists_next (by decide +kernel)⟩
  cases h

theorem wit_JoinReportsFirstFault :
    joining.phase = .join ∧ joining.useq = [.join] ∧ (∃ t, step joining = .next t) ∧
      joining.workers[1]? = some ⟨2, 4, 3, 0, .fault, .load⟩ ∧
      (∀ j w', j < 1 → joining.workers[j]? = some w' → w'.wstat ≠ .fault) ∧
      (∃ t, step joiningDone = .next t) ∧ ∀ w ∈ joiningDone.workers, w.wstat ≠ .fault := by
  refine ⟨rfl, rfl, ⟨_, rfl⟩, rfl, ?_, ⟨_, rfl⟩, by decide⟩
  intro j w' hj h
  obtain rfl : j = 0 := by omega
  cases h
  decide

theorem wit_NoWorkerStateSurvives :
    joining.phase = .join ∧ joining.useq = [.join] ∧
      ([⟨0, 1, 1, 3, .done, .store⟩, ⟨1, 9, 2, 1, .fault, .store⟩] : List Worker).map (fun w => w.wstat) =
        joining.workers.map (fun w => w.wstat) ∧ (∃ t, step joining = .next t) ∧ joining.MemOk ∧
      sparseWf unwrittenS [(0, vA), (1, vK)] = true ∧ 1 < joining.workers.length :=
  ⟨rfl, rfl, rfl, ⟨_, rfl⟩, ⟨rfl, rfl⟩, by decide +kernel, by decide⟩

/-- Three workers of ten blocks, in `RUN`, `DONE` and `FAULT`, and no worker. -/
theorem wit_StepKeepsWorkerBookkeeping :
    (let s := { storing with
        nblk := 10, wcount := 3, base := 3, extra := 1
        workers := [⟨0, 4, 3, 10, .run, .store⟩, ⟨4, 7, 7, 0, .done, .load⟩, ⟨7, 10, 8, 0, .fault, .load⟩] };
      s.WorkersOk ∧ ∃ t, step s = .next t) ∧ call.WorkersOk := by
  refine ⟨⟨⟨fun j w h => ?_, .inr (by decide)⟩, ⟨_, rfl⟩⟩, fun j w h => ?_, .inl rfl⟩
  · match j with
    | 0 => cases h; unfold Worker.Ok; decide
    | 1 => cases h; unfold Worker.Ok; decide
    | 2 => cases h; unfold Worker.Ok; decide
    | j + 3 => cases h
  · cases h

/-- A store and a read at both ends of the platform's memory, and one byte outside. -/
theorem wit_HostWritesAndReadsMemory :
    (∀ i, i < [1, 2].length → memValid ready.platform (0x3ffe + i) = true) ∧
      (∃ i, i < [1, 2].length ∧ memValid ready.platform (0x3fff + i) = false) ∧
      (∀ i, i < 2 → memValid ready.platform (0x1000 + i) = true) ∧
      (∃ i, i < 2 ∧ memValid ready.platform (0xfff + i) = false) ∧ ready.Quiet ∧ ready.MemOk ∧
      ({ ready with hostq := [.store 0x3ffe [1, 2], .load 0x1000 2] } : State).hostq = .store 0x3ffe [1, 2] :: [.load 0x1000 2] :=
  ⟨by decide +kernel, ⟨1, by decide +kernel⟩, by decide +kernel, ⟨0, by decide +kernel⟩, ⟨rfl, rfl⟩, ⟨rfl, rfl⟩, rfl⟩

theorem wit_HostReadsTheResultOfACall :
    let s := { call with hostq := [.load 0x2000 64] }
    s.CallLegal ∧ s.NoReset ∧ (∀ i, i < s.callBlocks → s.blockAdmitted i = true) ∧
      s.hostq = .load s.dst (16 * s.callBlocks) :: [] :=
  ⟨call_legal, wit_NoReset.1, call_admitted, rfl⟩

theorem wit_ResetValues :
    let s := { call with hostq := [.reset] }
    s.Quiet ∧ s.hostq = .reset :: [] ∧
    (let r := { storing with nblk := 4, sched := [.reset] };
      r.phase = .run ∧ r.useq = [] ∧ r.sched.head? = some .reset) := ⟨⟨rfl, rfl⟩, rfl, rfl, rfl, rfl⟩

end Sys2Proof.Tests
end

/-! PROOF. What one instruction and one step can do, said once, and the statements about the state (10_state) from it. -/

namespace Sys2Proof.Proofs

open Sys2Proof.Machine Sys2Proof.Laws

/-! ### Whole commands -/

/-- The guard of a host operation let it through. -/
theorem whenIdle_next {s t : State} {r : Result} (h : s.whenIdle r = .next t) : s.phase = .idle ∧ r = .next t := by
  unfold State.whenIdle at h
  split at h
  · exact ⟨‹_›, h⟩
  · cases h

theorem whenKeyed_next {s t : State} {r : Result} (h : s.whenKeyed r = .next t) :
    t = s.raise .illegalState 0 ∨ s.keyed = true ∧ r = .next t := by
  unfold State.whenKeyed at h
  split at h
  · exact .inr ⟨‹_›, h⟩
  · cases h; exact .inl rfl

theorem roundValue_congr {s t : State} (he : t.eks = s.eks) (hd : t.dks = s.dks) : roundValue t = roundValue s := by
  funext d r x
  cases d <;> simp only [roundValue, he, hd]

/-- The rest of the rounds of the phase `BLK`, from round `10 - n` on (42_blockcipher R192, R195): some block ends in `S[0]` and
`DOUT`, and in canonical worker registers it is the block the rounds make of `S[0]`. -/
theorem runSeq_blk (n : Nat) (s : State) (hp : s.phase = .blk) (hr : s.rnd + n = 10) :
    ∃ m v, runSeq (n + 1) s = .next ({ s with sreg := m, dout := v } : State).ret ∧
      (sparseWf unwrittenS s.sreg = true → m = sparsePut unwrittenS s.sreg 0 v ∧
        v = (List.range' s.rnd (n + 1)).foldl (fun x r => roundValue s s.blkDir r x) (s.readS 0)) := by
  have hb : s.phase ≠ .idle ∧ s.phase ≠ .run := by simp [hp]
  have hrow : seqRow s = blkRow s.blkDir s.rnd := by simp [seqRow, hp]
  induction n generalizing s with
  | zero =>
    have e : s.rnd = 10 := hr
    rw [e] at hrow
    refine ⟨_, _, (runSeq_step hb ((congrArg (runOps · s) hrow).trans (runOps_blkRow_last _ _))).trans rfl, fun hw => ?_⟩
    rw [readS_writeS_same _ _ _ hw, e]
    exact ⟨rfl, rfl⟩
  | succ n ih =>
    let x := roundValue s s.blkDir s.rnd (s.readS 0)
    obtain ⟨m, v, hrun, hv⟩ := ih { s.writeS 0 x with phase := .blk, rnd := s.rnd + 1 } rfl (by simp; omega)
      ⟨by simp, by simp⟩ rfl
    refine ⟨m, v, (runSeq_step hb ((congrArg (runOps · s) hrow).trans (runOps_blkRow _ _ s (by omega)))).trans hrun,
      fun hw => ?_⟩
    obtain ⟨hm, hv⟩ := hv (sparseWf_put hw)
    refine ⟨hm.trans (sparsePut_put hw), hv.trans ?_⟩
    rw [List.range'_succ, List.foldl_cons,
      show State.readS { s.writeS 0 x with phase := .blk, rnd := s.rnd + 1 } 0 = x from sparseGet_put_same hw]
    exact congrArg (fun f => (List.range' (s.rnd + 1) (n + 1)).foldl (fun x r => f s.blkDir r x) x)
      (roundValue_congr rfl rfl)

/-- A command of the phase `BLK` from `S[0] <- DIN` to its return (42_blockcipher R193, R196). -/
theorem runSeq_startBlock (d : Dir) (s : State) :
    ∃ m v, runSeq 11 (s.startBlock d) = .next ({ s with blkDir := d, sreg := m, dout := v } : State).ret ∧
      (sparseWf unwrittenS s.sreg = true → m = sparsePut unwrittenS s.sreg 0 v ∧ v = s.blockOp d s.din) := by
  obtain ⟨m, v, hrun, hv⟩ := runSeq_blk 10 (s.startBlock d) rfl rfl
  refine ⟨m, v, hrun, fun hw => ?_⟩
  obtain ⟨hm, hv⟩ := hv (sparseWf_put hw)
  rw [show (s.startBlock d).readS 0 = s.din from sparseGet_put_same hw] at hv
  exact ⟨hm.trans (sparsePut_put hw), hv.trans (by cases d <;> rfl)⟩

/-- The body of `ENCRYPT` and `DECRYPT` ends with `InvalidLength` or with its workers dispatched (44_facade R244, R245). -/
theorem startCall_next {d : Dir} {s t : State} (h : startCall d s = .next t) :
    t = s.raise .invalidLength 0 ∨ t = ({ s with nblk := s.len / 16, dir := d } : State).dispatchCall := by
  unfold startCall at h
  split at h
  · cases h; exact .inl rfl
  · split at h <;> cases h
    exact .inr rfl

/-- Round key `i` of `expand_enc(key)` (41_keyschedule R171). -/
theorem roundKey_expandEnc (key : Block) (i : Nat) (h : i < 11) : roundKey (expandEnc key) i = expandKey key i := by
  simp [roundKey, expandEnc, Vector.get_eq_getElem, Nat.mod_eq_of_lt h]

/-- Schedules with the same 11 round keys are equal. -/
theorem schedule_ext {E F : Schedule} (h : ∀ i, i < 11 → roundKey E i = roundKey F i) : E = F := by
  refine Vector.ext fun i hi => ?_
  simpa [roundKey, Vector.get_eq_getElem, Nat.mod_eq_of_lt hi] using h i hi

/-- A round key after one is written. -/
theorem roundKey_set (E : Schedule) (v : Block) (i j : Nat) (hi : i < 11) (hj : j < 11) :
    roundKey (E.set (Fin.ofNat 11 i) v) j = if j = i then v else roundKey E j := by
  simp [roundKey, Vector.get_eq_getElem, Vector.getElem_set, Nat.mod_eq_of_lt hi, Nat.mod_eq_of_lt hj, eq_comm]

/-- The micro-steps 0 to `i` of `KS_FWD` put the round keys 0 to `i` of the expansion of `KEY` in `EKS` (41_keyschedule R172). -/
theorem runSeq_ksFwd (i n : Nat) (s : State) (hi : i ≤ 10) :
    ∃ t u E, runSeq (n + (i + 1)) { s with phase := .ksFwd, rnd := 0 } = runSeq n
        { s with
          k := expandKey s.key i, t := t, u := u, eks := E
          phase := if i < 10 then .ksFwd else .ksInv, rnd := if i < 10 then i + 1 else 0 } ∧
      ∀ j, j ≤ i → roundKey E j = expandKey s.key j := by
  induction i generalizing n with
  | zero =>
    refine ⟨s.t, s.u, s.eks.set 0 s.key, runSeq_step ⟨nofun, nofun⟩ rfl, fun j hj => ?_⟩
    obtain rfl : j = 0 := by omega
    exact roundKey_set _ _ 0 0 (by omega) (by omega)
  | succ i ih =>
    obtain ⟨t, u, E, hrun, hE⟩ := ih (n + 1) (by omega)
    rw [if_pos (by omega), if_pos (by omega)] at hrun
    obtain ⟨t', u', hrow⟩ := runOps_ksFwdRow (i + 1)
      { s with k := expandKey s.key i, t := t, u := u, eks := E, phase := .ksFwd, rnd := i + 1 } (by omega)
    refine ⟨t', u', E.set (Fin.ofNat 11 (i + 1)) (expandKey s.key (i + 1)), ?_, fun j hj => ?_⟩
    · rw [show n + (i + 1 + 1) = n + 1 + (i + 1) by omega, hrun]
      exact runSeq_step ⟨nofun, nofun⟩ hrow
    · rw [roundKey_set _ _ _ _ (by omega) (by omega)]
      split
      · subst j; rfl
      · exact hE j (by omega)

/-- Round keys 0 and 10 of the decryption schedule are copied, the others pass the inverse mix (41_keyschedule R174). -/
theorem roundKey_expandDec (E : Schedule) (i : Nat) (h : i < 11) :
    roundKey (expandDec E) i = if i = 0 ∨ i = 10 then roundKey E i else invMixColumns (roundKey E i) := by
  simp [roundKey, expandDec, Vector.get_eq_getElem, Nat.mod_eq_of_lt h]

/-- The micro-steps 0 to `i` of `KS_INV`, before the last, put the round keys 0 to `i` of the decryption schedule in `DKS`
(41_keyschedule R174). -/
theorem runSeq_ksInv (i n : Nat) (s : State) (hi : i ≤ 9) :
    ∃ D, runSeq (n + (i + 1)) { s with phase := .ksInv, rnd := 0 } =
        runSeq n { s with dks := D, phase := .ksInv, rnd := i + 1 } ∧
      ∀ j, j ≤ i → roundKey D j = roundKey (expandDec s.eks) j := by
  induction i generalizing n with
  | zero =>
    refine ⟨s.dks.set 0 (s.eks.get 0), runSeq_step ⟨nofun, nofun⟩ rfl, fun j hj => ?_⟩
    obtain rfl : j = 0 := by omega
    rw [roundKey_expandDec _ _ (by omega)]
    exact roundKey_set _ _ 0 0 (by omega) (by omega)
  | succ i ih =>
    obtain ⟨D, hrun, hD⟩ := ih (n + 1) (by omega)
    refine ⟨D.set (Fin.ofNat 11 (i + 1)) (invMixColumns (roundKey s.eks (i + 1))), ?_, fun j hj => ?_⟩
    · rw [show n + (i + 1 + 1) = n + 1 + (i + 1) by omega, hrun]
      exact runSeq_step ⟨nofun, nofun⟩ (runOps_ksInvRow (i + 1) _ (by omega) (by omega))
    · rw [roundKey_set _ _ _ _ (by omega) (by omega)]
      split
      · subst j
        rw [roundKey_expandDec _ _ (by omega), if_neg (by omega)]
      · exact hD j (by omega)

/-- `CONSTRUCT` from its probe to its return, on a core with the hardware (44_facade R241). -/
theorem runSeq_construct (s : State) (hw : s.platform.hwcap = true) :
    ∃ k t u, runSeq 23 (s.goto .probe 0) = .next ({ s with
      key := s.keyin, eks := expandEnc s.keyin, dks := expandDec (expandEnc s.keyin), k := k, t := t, u := u } :
        State).constructEnd := by
  obtain ⟨t, u, E, hfwd, hE⟩ := runSeq_ksFwd 10 11 { s with key := s.keyin } (by omega)
  obtain rfl : E = expandEnc s.keyin :=
    schedule_ext fun i hi => (hE i (by omega)).trans (roundKey_expandEnc _ _ hi).symm
  obtain ⟨D, hinv, hD⟩ := runSeq_ksInv 9 1
    { s with key := s.keyin, eks := expandEnc s.keyin, k := expandKey s.keyin 10, t := t, u := u } (by omega)
  have hD10 : D.set 10 (roundKey (expandEnc s.keyin) 10) = expandDec (expandEnc s.keyin) :=
    schedule_ext fun i hi => by
      rw [show D.set 10 _ = D.set (Fin.ofNat 11 10) _ from rfl, roundKey_set _ _ _ _ (by omega) hi]
      split
      · subst i; rw [roundKey_expandDec _ _ hi, if_pos (.inr rfl)]
      · exact hD i (by omega)
  refine ⟨expandKey s.keyin 10, t, u, ?_⟩
  have hprobe : runOps (seqRow (s.goto .probe 0)) (s.goto .probe 0) =
      .next { s with key := s.keyin, phase := .ksFwd, rnd := 0 } := by
    simp [seqRow, runOps, doMicroOp, State.probeStep, State.goto, hw]
  rw [runSeq_step (by simp) hprobe]
  refine hfwd.trans (hinv.trans ?_)
  rw [← hD10]
  exact runSeq_step (by simp) (runOps_ksInvRow_last _)

/-- Without the hardware `CONSTRUCT` ends at its probe (44_facade R241). -/
theorem runSeq_construct_noHardware (s : State) (hw : s.platform.hwcap = false) :
    runSeq 23 (s.goto .probe 0) = .next (s.raise .unsupportedHardware 0) := by
  have hprobe : runOps (seqRow (s.goto .probe 0)) (s.goto .probe 0) = .next (s.raise .unsupportedHardware 0) := by
    simp [seqRow, runOps, doMicroOp, State.probeStep, State.goto, State.raise, hw]
  rw [runSeq_step (by simp) hprobe]
  exact runSeq_idle rfl

/-! ### One instruction -/

/-- An instruction runs the command `c`: it is `c`, or it writes to `CMD` a word that decodes to `c` (44_facade R254, R255). -/
def Issues (i c : Instr) : Prop := i = c ∨ ∃ v, i = .crwrite .cmd v ∧ decodeCommand (BitVec.ofNat 32 v) = .ok c

/-- Everything an instruction that answers a next state can do to the state. -/
inductive ExecEffect (i : Instr) (s : State) : State → Prop
  /-- A command ends with an error other than the two no command raises of itself (60_exceptions R270). -/
  | failed (hi : isPrim i = false) (e : Err) (he : e ≠ .workerFailure ∧ e ≠ .paddingValidationFailure) :
      ExecEffect i s (s.raise e 0)
  | constructed (hi : Issues i .construct) (k t u : Block) :
      ExecEffect i s ({ s with
        key := s.keyin, eks := expandEnc s.keyin, dks := expandDec (expandEnc s.keyin), k := k, t := t, u := u } :
          State).constructEnd
  | destroyed (hi : Issues i .destroy) : ExecEffect i s (s.setKeyed false).redrawKeyStore.ret
  /-- `ENCB` or `DECB`. -/
  | block (hi : isPrim i = false) (d : Dir) (m : List (Nat × Block)) (v : Block)
      (hm : sparseWf unwrittenS s.sreg = true → sparseWf unwrittenS m = true) :
      ExecEffect i s ({ s with blkDir := d, sreg := m, dout := v } : State).ret
  /-- `ENCRYPT` or `DECRYPT` reaches its workers. -/
  | dispatched (hi : isPrim i = false) (n : Nat) (d : Dir) :
      ExecEffect i s ({ s with nblk := n, dir := d } : State).dispatchCall
  | read (n : CR) (hi : i = .crread n) : ExecEffect i s { s with resp := some (.register n (s.readCR n)) }
  | written (n : CR) (v : Nat) (hi : i = .crwrite n v) : ExecEffect i s (s.writeCR n v)
  | data (d : Reg) (v : Block) (hi : dataResult s i = some (d, v)) : ExecEffect i s (s.writeReg d v)
  | loaded (j addr : Nat) (hi : i = .ldblk j addr) : ExecEffect i s (s.writeS j (memRead s.mem addr))
  | stored (addr j : Nat) (hi : i = .stblk addr j) : ExecEffect i s { s with mem := memWrite s.mem addr (s.readS j) }
  | faulted (hi : isPrim i = true) (j : Nat) : ExecEffect i s (s.faultWorker j)

theorem isPrim_of_issues {i c : Instr} (hi : Issues i c) (hc : isCommand c = true) : isPrim i = false := by
  rcases hi with rfl | ⟨v, rfl, -⟩
  · cases i <;> cases hc <;> rfl
  · rfl

theorem execConstruct_effect {i : Instr} {s t : State} (hi : Issues i .construct) (h : execConstruct s = .next t) :
    ExecEffect i s t := by
  have hp := isPrim_of_issues hi rfl
  obtain ⟨-, h⟩ := whenIdle_next h
  split at h
  · cases h; exact .failed hp .illegalState (by decide)
  cases hw : s.platform.hwcap with
  | true =>
    obtain ⟨k, t, u, hrun⟩ := runSeq_construct s hw
    cases hrun.symm.trans h
    exact .constructed hi k t u
  | false =>
    cases (runSeq_construct_noHardware s hw).symm.trans h
    exact .failed hp .unsupportedHardware (by decide)

theorem execBlock_effect {i : Instr} {s t : State} (d : Dir) (hi : isPrim i = false)
    (h : s.whenIdle (s.whenKeyed (runSeq 11 (s.startBlock d))) = .next t) : ExecEffect i s t := by
  obtain ⟨-, h⟩ := whenIdle_next h
  rcases whenKeyed_next h with rfl | ⟨-, h⟩
  · exact .failed hi .illegalState (by decide)
  · obtain ⟨m, v, hrun, hm⟩ := runSeq_startBlock d s
    cases hrun.symm.trans h
    exact .block hi d m v fun hw => (hm hw).1 ▸ sparseWf_put hw

theorem execCall_effect {i : Instr} {s t : State} (d : Dir) (hi : isPrim i = false)
    (h : s.whenIdle (s.whenKeyed (startCall d s)) = .next t) : ExecEffect i s t := by
  obtain ⟨-, h⟩ := whenIdle_next h
  rcases whenKeyed_next h with rfl | ⟨-, h⟩
  · exact .failed hi .illegalState (by decide)
  rcases startCall_next h with rfl | rfl
  · exact .failed hi .invalidLength (by decide)
  · exact .dispatched hi _ d

theorem execDestroy_effect {i : Instr} {s t : State} (hi : Issues i .destroy) (h : execDestroy s = .next t) :
    ExecEffect i s t := by
  cases (whenIdle_next h).2
  exact .destroyed hi

/-- A command, by whichever instruction it is issued. -/
theorem exec_command_effect {i c : Instr} {s t : State} (hi : Issues i c) (hc : isCommand c = true)
    (h : exec c s = .next t) : ExecEffect i s t := by
  have hp := isPrim_of_issues hi hc
  cases c with
  | construct => exact execConstruct_effect hi h
  | encrypt m => cases m; exact execCall_effect .enc hp h
  | decrypt m => cases m; exact execCall_effect .dec hp h
  | encb => exact execBlock_effect .enc hp h
  | decb => exact execBlock_effect .dec hp h
  | destroy => exact execDestroy_effect hi h
  | _ => cases hc

/-- The frame of a command: an illegal word raises `IllegalCommand`, any other runs its command (44_facade R255). -/
theorem issueCommand_cases (w : BitVec 32) (s : State) :
    issueCommand w s = .next (s.raise .illegalCommand 0) ∨
      ∃ c, isCommand c = true ∧ decodeCommand w = .ok c ∧ issueCommand w s = exec c s := by
  unfold issueCommand
  rcases decodeCommand_cases w with ⟨h, -⟩ | ⟨-, -, h⟩
  · exact .inl (by rw [h])
  · refine .inr ?_
    rcases h with ⟨-, h⟩ | ⟨-, h⟩ | ⟨-, h⟩ | ⟨-, h⟩ | ⟨-, h⟩ | ⟨-, h⟩ <;> exact ⟨_, rfl, h, by rw [h]; rfl⟩

theorem execCrwrite_effect {n : CR} {v : Nat} {s t : State} (h : execCrwrite n v s = .next t) :
    ExecEffect (.crwrite n v) s t := by
  obtain ⟨-, h⟩ := whenIdle_next h
  cases n with
  | cmd =>
    rcases issueCommand_cases (BitVec.ofNat 32 v) s with e | ⟨c, hc, hd, e⟩
    · cases e.symm.trans h
      exact .failed rfl .illegalCommand (by decide)
    · exact exec_command_effect (.inr ⟨v, rfl, hd⟩) hc (e.symm.trans h)
  | _ => cases h; exact .written _ v rfl

theorem execLdblk_effect {j addr : Nat} {s t : State} (h : execLdblk j addr s = .next t) :
    ExecEffect (.ldblk j addr) s t := by
  unfold execLdblk at h
  split at h <;> cases h
  · exact .loaded j addr rfl
  · exact .faulted rfl j

theorem execStblk_effect {addr j : Nat} {s t : State} (h : execStblk addr j s = .next t) :
    ExecEffect (.stblk addr j) s t := by
  unfold execStblk at h
  split at h <;> cases h
  · exact .stored addr j rfl
  · exact .faulted rfl j

/-- Every instruction that answers a next state has one of the effects. -/
theorem exec_effect {i : Instr} {s t : State} (h : exec i s = .next t) : ExecEffect i s t := by
  cases i with
  | crread n => cases (whenIdle_next h).2; exact .read n rfl
  | crwrite n v => exact execCrwrite_effect h
  | ldblk j addr => exact execLdblk_effect h
  | stblk addr j => exact execStblk_effect h
  | construct | encrypt | decrypt | encb | decb | destroy => exact exec_command_effect (.inl rfl) rfl h
  | pxor | pslldq4 | pshufdFf | aeskeygenassist | aesimc | aesenc | aesenclast | aesdec | aesdeclast =>
    cases h; exact .data _ _ rfl

/-- A well-formed data primitive has a destination the micro-sequences route (30_encoding R95). -/
theorem isDest_of_wf {i : Instr} {s : State} {aw : Nat} {d : Reg} {v : Block} (hw : i.wf aw = true)
    (hi : dataResult s i = some (d, v)) : d.isDest = true := by
  cases i <;> cases hi <;> simp_all [Instr.wf]

theorem isPrim_of_dataResult {i : Instr} {s : State} {x : Reg × Block} (hi : dataResult s i = some x) :
    isPrim i = true := by
  cases i <;> cases hi <;> rfl

/-! ### One step -/

/-- Where a step finds its operation (10_state R40): the row in hand, the host, the workers, or the row `seq` names. -/
theorem step_cases {s t : State} (h : step s = .next t) :
    (∃ op ops, s.useq = op :: ops ∧ doMicroOp op { s with useq := ops } = .next t) ∨
    s.useq = [] ∧
      (s.phase = .idle ∧ (s.hostq = [] ∧ t = s ∨
          ∃ e q, s.hostq = e :: q ∧ stepHostEvent e { s with hostq := q } = .next t) ∨
        s.phase = .run ∧ t = s.runStep ∨
        s.phase ≠ .idle ∧ s.phase ≠ .run ∧ t = { s with useq := seqRow s }) := by
  unfold step stepOf at h
  split at h
  · exact .inl ⟨_, _, ‹_›, (stepMicroOp_eq _ _).symm.trans h⟩
  refine .inr ⟨‹_›, ?_⟩
  split at h
  · refine .inl ⟨‹_›, ?_⟩
    unfold stepIdle at h
    split at h
    · cases h; exact .inl ⟨‹_›, rfl⟩
    · exact .inr ⟨_, _, ‹_›, h⟩
  · cases h; exact .inr (.inl ⟨‹_›, rfl⟩)
  · cases h; exact .inr (.inr ⟨‹_›, ‹_›, rfl⟩)

/-- A step of the `RUN` phase: a reset, the way to the join, or a worker's row (43_parallel R214, R216; 70_reset R301). -/
theorem runStep_cases (s : State) :
    (s.sched.head? = some .reset ∧ s.runStep = { s.abandonCall with sched := s.sched.tail }) ∨
    s.runStep = s.goto .join 0 ∨ ∃ j, s.runStep = { s with sched := s.sched.tail, useq := workerRow s j } := by
  unfold State.runStep
  split
  · rename_i hc
    refine .inl ⟨?_, rfl⟩
    cases hs : s.sched with
    | nil => rw [hs] at hc; cases hc
    | cons c cs => rw [hs] at hc; exact congrArg some hc
  · refine .inr ?_
    unfold State.turn
    split
    · exact .inl rfl
    · exact .inr ⟨_, rfl⟩

/-- A host operation: an access that is no primitive, a store, a read or a reset (70_reset R317). -/
theorem stepHostEvent_cases {e : HostEvent} {s t : State} (h : stepHostEvent e s = .next t) :
    (∃ i, isPrim i = false ∧ ExecEffect i s t) ∨
    (∃ a bs, t = { s with mem := memSetBytes s.mem a bs }) ∨
    (∃ r, t = { s with resp := some r }) ∨ t = s.resetEvent := by
  cases e with
  | access header payload =>
    simp only [stepHostEvent] at h
    split at h
    · refine .inl ⟨_, ?_, exec_effect h⟩
      obtain ⟨r, -, ⟨-, -, rfl⟩ | ⟨-, -, rfl⟩⟩ := decodeAccess_ok ‹_› <;> rfl
    · cases h
  | store a bs =>
    rcases hostStore_cases a bs s with ⟨-, e⟩ | ⟨-, e⟩ <;> cases e.symm.trans h
    exact .inr (.inl ⟨a, bs, rfl⟩)
  | load a n =>
    rcases hostLoad_cases a n s with ⟨-, e⟩ | ⟨-, e⟩ <;> cases e.symm.trans h
    exact .inr (.inr (.inl ⟨_, rfl⟩))
  | reset => cases h; exact .inr (.inr (.inr rfl))

/-- A primitive of a row is the instruction its word decodes to (30_encoding R95). -/
theorem doMicroOp_prim {w : BitVec 12} {r : Route} {s t : State} (h : doMicroOp (.prim w r) s = .next t) :
    ∃ i, decodePrim w r = .ok i ∧ ExecEffect i s t := by
  rw [← stepMicroOp_eq] at h
  simp only [stepMicroOp] at h
  split at h
  · exact ⟨_, ‹_›, exec_effect h⟩
  · cases h

/-! ### The edits a step is made of -/

/-- One edit of the state, by the part of it that changes; what an edit promises of that part is what the invariants need. -/
inductive Edit (s : State) : State → Prop
  /-- The sequencer, the host's side and the free-value counter. -/
  | control (ph : Phase) (r : Nat) (d : Dir) (us : List MicroOp) (sc : List Choice) (hq : List HostEvent)
      (re : Option Response) (n : Nat) :
      Edit s { s with phase := ph, rnd := r, blkDir := d, useq := us, sched := sc, hostq := hq, resp := re, freeCount := n }
  /-- The 128-bit registers. -/
  | regs {t : State} (h : s.SameButRegs t)
      (hm : sparseWf unwrittenS s.sreg = true → sparseWf unwrittenS t.sreg = true) : Edit s t
  | mem (m : List Host.Cell) (hm : memWf s.mem = true → memWf m = true) : Edit s { s with mem := m }
  | keyed (b : Bool) : Edit s (s.setKeyed b)
  | raised (e : Err) (info : Word) (he : e ≠ .paddingValidationFailure) (hi : e ≠ .workerFailure → info = 0) :
      Edit s (s.raise e info)
  | returned : Edit s s.ret
  | hostWrite (n : CR) (v : Nat) : Edit s (s.writeCR n v)
  | worker (j : Nat) (f : Worker → Worker)
      (hf : ∀ w, w.Ok → w.wstat = .run → (f w).Ok ∧ (f w).lo = w.lo ∧ (f w).hi = w.hi) : Edit s (s.updateWorker j f)
  | fault (j : Nat) : Edit s (s.faultWorker j)
  | dispatch (n : Nat) (d : Dir) : Edit s ({ s with nblk := n, dir := d } : State).dispatchCall
  | discard : Edit s s.discardCall
  | reset : Edit s s.resetEvent

/-- A chain of edits. -/
abbrev Edits : State → State → Prop := Relation.ReflTransGen Edit

theorem Edit.edits {s t : State} (h : Edit s t) : Edits s t := .single h

/-- What every edit keeps, a chain of edits keeps. -/
theorem Edits.keep {P : State → Prop} (hP : ∀ s t, Edit s t → P s → P t) {s t : State} (h : Edits s t) (hs : P s) : P t := by
  induction h with
  | refl => exact hs
  | tail _ he ih => exact hP _ _ he ih

theorem edits_writeReg (s : State) (r : Reg) (v : Block) : Edits s (s.writeReg r v) :=
  (Edit.regs (sameButRegs_writeReg s r v) (sregWf_writeReg s r v)).edits

theorem edits_redrawWorking (s : State) : Edits s s.redrawWorking :=
  (Edit.regs (s := s) (t := { s.redrawWorking with freeCount := s.freeCount }) rfl id).edits.tail (.control _ _ _ _ _ _ _ _)

theorem edits_redrawKeyStore (s : State) : Edits s s.redrawKeyStore :=
  (Edit.regs (s := s) (t := { s.redrawKeyStore with freeCount := s.freeCount }) rfl id).edits.tail (.control _ _ _ _ _ _ _ _)

theorem edits_constructEnd (s : State) : Edits s s.constructEnd :=
  ((Edit.keyed true).edits.trans (edits_redrawWorking _)).tail .returned

theorem edits_probeStep (s : State) : Edits s s.probeStep := by
  unfold State.probeStep
  split
  · exact (Edit.regs (s := s) (t := { s with key := s.keyin }) rfl id).edits.tail (.control _ _ _ _ _ _ _ _)
  · exact (Edit.raised _ _ (by decide) fun _ => rfl).edits

theorem edits_joinCall (s : State) : Edits s s.joinCall := by
  rcases joinCall_cases s with ⟨-, h⟩ | ⟨f, -, h⟩ <;> rw [h]
  · exact Edit.discard.edits.tail .returned
  · exact Edit.discard.edits.tail (.raised _ _ (by decide) fun h => absurd rfl h)

theorem edits_exec {i : Instr} {s t : State} (h : ExecEffect i s t) : Edits s t := by
  cases h with
  | failed _ e he => exact (Edit.raised e 0 he.2 fun _ => rfl).edits
  | constructed _ k t u => exact .head (.regs (by rfl) (by exact id)) (edits_constructEnd _)
  | destroyed => exact ((Edit.keyed false).edits.trans (edits_redrawKeyStore _)).tail .returned
  | block _ d m v hm =>
    exact ((Edit.regs (s := s) (t := { s with sreg := m, dout := v }) rfl hm).edits.tail (.control _ _ d _ _ _ _ _)).tail .returned
  | dispatched _ n d => exact (Edit.dispatch n d).edits
  | read => exact (Edit.control _ _ _ _ _ _ _ _).edits
  | written n v => exact (Edit.hostWrite n v).edits
  | data d v => exact edits_writeReg s d v
  | loaded j addr => exact edits_writeReg s (.s j) _
  | stored addr j => exact (Edit.mem _ (memWf_write addr _)).edits
  | faulted _ j => exact (Edit.fault j).edits

theorem edits_doMicroOp {op : MicroOp} {s t : State} (h : doMicroOp op s = .next t) : Edits s t := by
  cases op with
  | prim w r =>
    obtain ⟨i, -, hi⟩ := doMicroOp_prim h
    exact edits_exec hi
  | move d a => cases h; exact edits_writeReg s d _
  | goto p r => cases h; exact (Edit.control _ _ _ _ _ _ _ _).edits
  | probe => cases h; exact edits_probeStep s
  | keyed => cases h; exact edits_constructEnd s
  | ret => cases h; exact Edit.returned.edits
  | dispatch => cases h; exact (Edit.dispatch s.nblk s.dir).edits
  | join => cases h; exact edits_joinCall s
  | loaded j => cases h; exact (Edit.worker j _ fun w h _ => ⟨workerLoaded_ok h, rfl, rfl⟩).edits
  | rounded j =>
    cases h
    refine (Edit.worker j _ fun w h _ => ⟨workerRounded_ok h, ?_⟩).edits
    unfold workerRounded
    split <;> exact ⟨rfl, rfl⟩
  | stored j => cases h; exact (Edit.worker j _ fun w h hr => ⟨workerStored_ok h hr, rfl, rfl⟩).edits

/-- One block more of an abandoned call's destination. -/
theorem redrawBlocks_succ (p : Platform) (dst n c : Nat) (m : List Host.Cell) :
    redrawBlocks p dst (n + 1) c m =
      if admitted p (dst + 16 * n) && Config.freeBool (c + n) then
        memWrite (redrawBlocks p dst n c m) (dst + 16 * n) (Config.freeBlock (c + n))
      else redrawBlocks p dst n c m := by
  simp [redrawBlocks, List.range_succ]

theorem memWf_redrawBlocks (p : Platform) (dst n c : Nat) {m : List Host.Cell} (h : memWf m = true) :
    memWf (redrawBlocks p dst n c m) = true := by
  induction n with
  | zero => exact h
  | succ n ih =>
    rw [redrawBlocks_succ]
    split
    · exact memWf_write _ _ ih
    · exact ih

theorem edits_runStep (s : State) : Edits s s.runStep := by
  rcases runStep_cases s with ⟨-, h⟩ | h | ⟨j, h⟩ <;> rw [h]
  · exact (((Edit.mem _ (memWf_redrawBlocks _ _ _ _)).edits.tail (.control _ _ _ _ _ _ _ _)).tail .reset).tail
      (.control _ _ _ _ _ _ _ _)
  · exact (Edit.control _ _ _ _ _ _ _ _).edits
  · exact (Edit.control _ _ _ _ _ _ _ _).edits

theorem edits_stepHostEvent {e : HostEvent} {s t : State} (h : stepHostEvent e s = .next t) : Edits s t := by
  rcases stepHostEvent_cases h with ⟨i, -, h⟩ | ⟨a, bs, rfl⟩ | ⟨r, rfl⟩ | rfl
  · exact edits_exec h
  · exact (Edit.mem _ (memWf_setBytes bs a)).edits
  · exact (Edit.control _ _ _ _ _ _ _ _).edits
  · exact Edit.reset.edits

/-- Every step is a chain of edits. -/
theorem edits_step {s t : State} (h : step s = .next t) : Edits s t := by
  rcases step_cases h with ⟨op, ops, -, h⟩ | ⟨-, ⟨-, ⟨-, rfl⟩ | ⟨e, q, -, h⟩⟩ | ⟨-, rfl⟩ | ⟨-, -, rfl⟩⟩
  · exact (Edit.control _ _ _ ops _ _ _ _).edits.trans (edits_doMicroOp h)
  · exact .refl
  · exact (Edit.control _ _ _ _ _ q _ _).edits.trans (edits_stepHostEvent h)
  · exact edits_runStep s
  · exact (Edit.control _ _ _ _ _ _ _ _).edits

/-- What every edit keeps, every step keeps. -/
theorem step_keeps {P : State → Prop} (hP : ∀ s t, Edit s t → P s → P t) {s t : State} (h : step s = .next t) (hs : P s) :
    P t := (edits_step h).keep hP hs

/-! ### The canonical form of memory and of the worker registers -/

theorem sregWf_redrawS (s : State) (h : sparseWf unwrittenS s.sreg = true) : sparseWf unwrittenS s.redrawS.sreg = true :=
  List.foldlRecOn (motive := fun m => sparseWf unwrittenS m = true) _ _ h fun _ hm _ _ => sparseWf_put hm

theorem sregWf_resetEvent (s : State) (h : sparseWf unwrittenS s.sreg = true) :
    sparseWf unwrittenS s.resetEvent.sreg = true :=
  sregWf_redrawS _ (sregWf_discardCall s.redrawData.redrawKeyStore.redrawWorking h)

theorem memOk_edit {s t : State} (h : Edit s t) (hs : s.MemOk) : t.MemOk := by
  obtain ⟨hmem, hsreg⟩ := hs
  cases h with
  | regs h hm => exact ⟨congrArg State.mem h ▸ hmem, hm hsreg⟩
  | mem m hm => exact ⟨hm hmem, hsreg⟩
  | hostWrite n v => cases n <;> exact ⟨hmem, hsreg⟩
  | discard => exact ⟨hmem, sregWf_discardCall s hsreg⟩
  | reset => exact ⟨hmem, sregWf_resetEvent s hsreg⟩
  | control | keyed | raised | returned | worker | fault | dispatch => exact ⟨hmem, hsreg⟩

/-- Settles O23: every edit a step is made of keeps the canonical form. -/
theorem stepKeepsMemoryForm : Obligations.StepKeepsMemoryForm :=
  fun _ _ hs h => step_keeps (fun _ _ => memOk_edit) h hs

/-! ### The outcome registers -/

@[simp] theorem withErrBit_reserved (b : Bool) (w : Word) : withErrBit b w &&& ~~~3#32 = w &&& ~~~3#32 := by
  cases b
  · exact BitVec.and_assoc w (~~~2#32) (~~~3#32)
  · exact BitVec.and_or_distrib_right.trans BitVec.or_zero

@[simp] theorem withKeyedBit_reserved (b : Bool) (w : Word) : withKeyedBit b w &&& ~~~3#32 = w &&& ~~~3#32 := by
  cases b
  · exact BitVec.and_assoc w (~~~1#32) (~~~3#32)
  · exact BitVec.and_or_distrib_right.trans BitVec.or_zero

@[simp] theorem withErrBit_err (b : Bool) (w : Word) : (withErrBit b w).getLsbD 1 = b := by
  cases b <;> simp [withErrBit]

@[simp] theorem withErrBit_keyed (b : Bool) (w : Word) : (withErrBit b w).getLsbD 0 = w.getLsbD 0 := by
  cases b <;> simp [withErrBit]

@[simp] theorem withKeyedBit_err (b : Bool) (w : Word) : (withKeyedBit b w).getLsbD 1 = w.getLsbD 1 := by
  cases b <;> simp [withKeyedBit]

@[simp] theorem withKeyedBit_keyed (b : Bool) (w : Word) : (withKeyedBit b w).getLsbD 0 = b := by
  cases b <;> simp [withKeyedBit]

/-- What R30 and R31 ask of the code of an error (60_exceptions R270). -/
theorem errCode_ok (e : Err) :
    e.code ≠ 0 ∧ e.code.toNat ≤ 6 ∧ (e ≠ .paddingValidationFailure → e.code ≠ 4) ∧ (e ≠ .workerFailure → e.code ≠ 3) := by
  cases e <;> decide

theorem statusOk_raise {s : State} (e : Err) (info : Word) (hs : s.StatusOk) (he : e ≠ .paddingValidationFailure)
    (hi : e ≠ .workerFailure → info = 0) : (s.raise e info).StatusOk := by
  obtain ⟨hne, hle, h4, -⟩ := errCode_ok e
  refine ⟨(withErrBit_reserved true s.status).trans hs.1, ?_, hle, h4 he, fun hc => hi ?_⟩
  · exact (withErrBit_err true s.status).trans (decide_eq_true hne).symm
  · rintro rfl; exact hc rfl

theorem statusOk_of_success {s : State} (hres : s.status &&& ~~~3#32 = 0) (herr : s.err = false) (hcode : s.errcode = 0)
    (hinfo : s.errinfo = 0) : s.StatusOk := by
  exact ⟨hres, by simp [herr, hcode], by simp [hcode], by simp [hcode], fun _ => hinfo⟩

theorem statusOk_of_zero {s : State} (hs : s.status = 0) (hcode : s.errcode = 0) (hinfo : s.errinfo = 0) : s.StatusOk :=
  statusOk_of_success (by rw [hs]; exact BitVec.zero_and) (by simp [State.err, hs]) hcode hinfo

theorem statusOk_edit {s t : State} (h : Edit s t) (hs : s.StatusOk) : t.StatusOk := by
  cases h with
  | regs h => rw [← h] at hs; exact hs
  | keyed b =>
    obtain ⟨hres, herr, hcode⟩ := hs
    exact ⟨(withKeyedBit_reserved b s.status).trans hres, (withKeyedBit_err b s.status).trans herr, hcode⟩
  | raised e info he hi => exact statusOk_raise e info hs he hi
  | returned =>
    exact statusOk_of_success ((withErrBit_reserved false s.status).trans hs.1) (withErrBit_err false s.status) rfl rfl
  | hostWrite n v => cases n <;> exact hs
  | reset => exact statusOk_of_zero rfl rfl rfl
  | control | mem | worker | fault | dispatch | discard => exact hs

/-- Settles O41: `ERR`, `ERRCODE` and `ERRINFO` are written only together, by an error, by a return and by a reset. -/
theorem stepKeepsOutcomeRegisters : Obligations.StepKeepsOutcomeRegisters :=
  fun _ _ hs h => step_keeps (fun _ _ => statusOk_edit) h hs

/-! ### Widths and parameters -/

theorem addressesOk_edit {s t : State} (h : Edit s t) (hs : s.AddressesOk) : t.AddressesOk := by
  have hpos := Nat.two_pow_pos s.platform.aw
  cases h with
  | regs h => rw [← h] at hs; exact hs
  | hostWrite n v =>
    obtain ⟨hsrc, hdst, hlen⟩ := hs
    have hv : v % 2 ^ s.platform.aw < 2 ^ s.platform.aw := Nat.mod_lt _ hpos
    cases n with
    | src => exact ⟨hv, hdst, hlen⟩
    | dst => exact ⟨hsrc, hv, hlen⟩
    | len => exact ⟨hsrc, hdst, hv⟩
    | _ => exact ⟨hsrc, hdst, hlen⟩
  | reset => exact ⟨hpos, hpos, hpos⟩
  | control | mem | keyed | raised | returned | worker | fault | dispatch | discard => exact hs

theorem platform_edit {s t : State} (h : Edit s t) : t.platform = s.platform := by
  cases h with
  | regs h => rw [← h]
  | hostWrite n v => cases n <;> rfl
  | _ => rfl

/-- Settles O42: only the host's writes, which are cut to AW bits, and a reset reach the three registers, and no edit reaches the
parameters. -/
theorem stepKeepsWidthsAndPlatform : Obligations.StepKeepsWidthsAndPlatform :=
  ⟨fun _ _ hs h => step_keeps (fun _ _ => addressesOk_edit) h hs,
    fun s _ h => step_keeps (P := fun t => t.platform = s.platform) (fun _ _ he hs => (platform_edit he).trans hs) h rfl⟩

/-! ### The workers' bookkeeping -/

theorem workersOk_edit {s t : State} (h : Edit s t) (hs : s.WorkersOk) : t.WorkersOk := by
  cases h with
  | regs h => rw [← h] at hs; exact hs
  | hostWrite n v => cases n <;> exact hs
  | worker j f hf => exact workersOk_updateWorker j hs hf
  | fault j => exact workersOk_faultWorker j hs
  | dispatch n d => exact workersOk_dispatchCall _
  | discard => exact workersOk_nil rfl
  | reset => exact workersOk_nil rfl
  | control | mem | keyed | raised | returned => exact hs

/-- Settles O57: an edit reaches a worker only by its own bookkeeping, a fault, the dispatch, or the end of all workers. -/
theorem stepKeepsWorkerBookkeeping : Obligations.StepKeepsWorkerBookkeeping :=
  fun _ _ hs h => step_keeps (fun _ _ => workersOk_edit) h hs

/-! ### The key store -/

/-- `KEY`, both schedules and `KEYED` agree. -/
def KeyStoreSame (s t : State) : Prop := t.key = s.key ∧ t.eks = s.eks ∧ t.dks = s.dks ∧ t.keyed = s.keyed

theorem keyStoreOk_of_same {s t : State} (h : KeyStoreSame s t) (hs : s.KeyStoreOk) : t.KeyStoreOk := by
  obtain ⟨hkey, heks, hdks, hkeyed⟩ := h
  unfold State.KeyStoreOk
  rw [hkey, heks, hdks, hkeyed]
  exact hs

theorem keyStoreSame_raise (s : State) (e : Err) (info : Word) : KeyStoreSame s (s.raise e info) :=
  ⟨rfl, rfl, rfl, withErrBit_keyed true s.status⟩

theorem keyStoreSame_joinCall (s : State) : KeyStoreSame s s.joinCall := by
  rcases joinCall_cases s with ⟨-, h⟩ | ⟨f, -, h⟩ <;> rw [h] <;> exact ⟨rfl, rfl, rfl, withErrBit_keyed _ s.status⟩

theorem keyStoreSame_mem (s : State) (m : List Host.Cell) : KeyStoreSame s { s with mem := m } := ⟨rfl, rfl, rfl, rfl⟩

theorem keyStoreSame_writeCR (s : State) (n : CR) (v : Nat) : KeyStoreSame s (s.writeCR n v) := by
  cases n <;> exact ⟨rfl, rfl, rfl, rfl⟩

/-- Only the two life-cycle commands and the data primitives can reach the key store (10_state R25, R26, R30). -/
theorem execEffect_keyStore {i : Instr} {s t : State} (h : ExecEffect i s t) :
    Issues i .construct ∨ Issues i .destroy ∨ KeyStoreSame s t ∨ ∃ d v, dataResult s i = some (d, v) ∧ t = s.writeReg d v := by
  cases h with
  | constructed hi => exact .inl hi
  | destroyed hi => exact .inr (.inl hi)
  | data d v hi => exact .inr (.inr (.inr ⟨d, v, hi, rfl⟩))
  | failed _ e => exact .inr (.inr (.inl (keyStoreSame_raise s e 0)))
  | block => exact .inr (.inr (.inl ⟨rfl, rfl, rfl, withErrBit_keyed false s.status⟩))
  | written n v => exact .inr (.inr (.inl (keyStoreSame_writeCR s n v)))
  | stored addr j => exact .inr (.inr (.inl (keyStoreSame_mem s _)))
  | dispatched | read | loaded | faulted => exact .inr (.inr (.inl ⟨rfl, rfl, rfl, rfl⟩))

/-- No register a micro-sequence routes to a primitive as its destination is `KEY` or an `EKS[i]`. -/
theorem writeReg_isDest {d : Reg} (s : State) (v : Block) (hd : d.isDest = true) :
    (s.writeReg d v).key = s.key ∧ (s.writeReg d v).eks = s.eks := by
  cases d <;> cases hd <;> exact ⟨rfl, rfl⟩

/-- Settles O31: a data primitive writes a routed destination, and every other effect but the two leaves the key store alone. -/
theorem onlyLifeCycleCommandsWriteKeys : Obligations.OnlyLifeCycleCommandsWriteKeys := by
  intro i s t hw h hne
  rcases execEffect_keyStore (exec_effect h) with hi | hi | ⟨hkey, heks, -, hkeyed⟩ | ⟨d, v, hi, rfl⟩
  · exact hi.imp_right fun ⟨v, hv, hd⟩ => .inr ⟨v, hv, .inl hd⟩
  · exact .inr (hi.imp_right fun ⟨v, hv, hd⟩ => ⟨v, hv, .inr hd⟩)
  · exact absurd hne (by simp [hkey, heks, hkeyed])
  · obtain ⟨hkey, heks⟩ := writeReg_isDest s v (isDest_of_wf hw hi)
    exact absurd hne (by simp [hkey, heks, State.keyed])

theorem exec_crread (n : CR) {s : State} (hs : s.phase = .idle) :
    exec (.crread n) s = .next { s with resp := some (.register n (s.readCR n)) } := by
  simp [exec, execCrread, State.whenIdle, hs]

/-- Settles O32: a read copies a control register, and no control register holds a key (10_state R25, R26, R28). -/
theorem keyStoreNotReadable : Obligations.KeyStoreNotReadable := by
  intro n s key' eks' dks' hs
  refine ⟨_, _, exec_crread n hs, exec_crread n hs, ?_⟩
  cases n <;> rfl

/-! ### Between the steps of a run -/

theorem seqOk_of_idle {s : State} (hp : s.phase = .idle) (hu : s.useq = []) : s.SeqOk := by simp [State.SeqOk, hp, hu]

theorem seqOk_of_run {s : State} (hp : s.phase = .run) (hu : ∀ op ∈ s.useq, op.ofWorker = true) : s.SeqOk := by
  simpa [State.SeqOk, hp] using hu

theorem seqOk_of_join {s : State} (hp : s.phase = .join) (hu : s.useq = [] ∨ s.useq = [.join]) : s.SeqOk := by
  simpa [State.SeqOk, hp] using hu

/-- A row stands in hand only while the workers run, where it is a worker's, and for the join. -/
theorem seqOk_inHand {s : State} {op : MicroOp} {ops : List MicroOp} (hs : s.SeqOk) (hu : s.useq = op :: ops) :
    s.phase = .run ∧ (∀ x ∈ op :: ops, x.ofWorker = true) ∨ s.phase = .join ∧ op = .join ∧ ops = [] := by
  unfold State.SeqOk at hs
  rw [hu] at hs
  split at hs
  · cases hs
  · exact .inl ⟨‹_›, hs⟩
  · refine .inr ⟨‹_›, ?_⟩
    simpa using hs
  · exact hs.elim

/-- Between steps no phase but `IDLE`, `RUN` and `JOIN` stands (10_state R40). -/
theorem seqOk_busy {s : State} (hs : s.SeqOk) (hi : s.phase ≠ .idle) (hr : s.phase ≠ .run) : s.phase = .join := by
  unfold State.SeqOk at hs
  split at hs
  · exact absurd ‹_› hi
  · exact absurd ‹_› hr
  · assumption
  · exact hs.elim

theorem phase_joinCall (s : State) : s.joinCall.phase = .idle := by
  rcases joinCall_cases s with ⟨-, h⟩ | ⟨f, -, h⟩ <;> rw [h] <;> rfl

theorem useq_joinCall (s : State) : s.joinCall.useq = s.useq := by
  rcases joinCall_cases s with ⟨-, h⟩ | ⟨f, -, h⟩ <;> rw [h] <;> rfl

theorem hostRegsEq_joinCall (s : State) : s.HostRegsEq s.joinCall := by
  rcases joinCall_cases s with ⟨-, h⟩ | ⟨f, -, h⟩ <;> rw [h] <;> exact ⟨rfl, rfl, rfl, rfl, rfl, rfl⟩

/-- A primitive word decodes to a primitive, and a data primitive writes the destination its routing names (30_encoding R95). -/
theorem decodePrim_prim {w : BitVec 12} {r : Route} {i : Instr} (hd : decodePrim w r = .ok i) :
    isPrim i = true ∧ ∀ s d v, dataResult s i = some (d, v) → d = r.d := by
  rcases selectPrim_cases (decodePrim_ok hd).1 with ⟨-, rfl⟩ | ⟨-, h⟩
  · exact ⟨rfl, fun s d v hi => by cases hi; rfl⟩
  · rcases h with ⟨-, rfl⟩ | ⟨-, rfl⟩ | ⟨-, rfl⟩ | ⟨-, rfl⟩ | ⟨-, rfl⟩ | ⟨-, rfl⟩ | ⟨-, rfl⟩ | ⟨-, rfl⟩ | ⟨-, rfl⟩ | ⟨-, rfl⟩ <;>
      exact ⟨rfl, fun s d v hi => by cases hi <;> rfl⟩

/-- A primitive writes its destination, memory or the workers, and nothing else. -/
theorem execEffect_prim {i : Instr} {s t : State} (hi : isPrim i = true) (h : ExecEffect i s t) :
    (∃ d v, dataResult s i = some (d, v) ∧ t = s.writeReg d v) ∨
      ∃ m ms ws, t = { s with sreg := m, mem := ms, workers := ws } := by
  cases h with
  | failed hp | block hp | dispatched hp => simp [hp] at hi
  | constructed hc | destroyed hc => simp [isPrim_of_issues hc rfl] at hi
  | read n e | written n v e => subst e; cases hi
  | data d v h => exact .inl ⟨d, v, h, rfl⟩
  | loaded | stored | faulted => exact .inr ⟨_, _, _, rfl⟩

/-- The destination of a worker's primitive is some `S[j]`. -/
theorem route_ofWorker {w : BitVec 12} {r : Route} (h : (MicroOp.prim w r).ofWorker = true) : ∃ j, r.d = .s j := by
  unfold MicroOp.ofWorker at h
  dsimp only at h
  split at h
  · exact ⟨_, ‹_›⟩
  · cases h

/-- A micro-operation of a worker's row writes worker registers, memory and the workers, and nothing else. -/
theorem doMicroOp_ofWorker {op : MicroOp} {s t : State} (ho : op.ofWorker = true) (h : doMicroOp op s = .next t) :
    ∃ m ms ws, t = { s with sreg := m, mem := ms, workers := ws } := by
  cases op with
  | prim w r =>
    obtain ⟨i, hd, h⟩ := doMicroOp_prim h
    obtain ⟨hp, hdest⟩ := decodePrim_prim hd
    rcases execEffect_prim hp h with ⟨d, v, hi, rfl⟩ | ht
    · obtain rfl := hdest _ _ _ hi
      obtain ⟨j, hj⟩ := route_ofWorker ho
      rw [hj]
      exact ⟨_, _, _, rfl⟩
    · exact ht
  | loaded j | rounded j | stored j => cases h; exact ⟨_, _, _, rfl⟩
  | _ => cases ho

/-- Every micro-operation of a worker's row is a worker's. -/
theorem ofWorker_workerRow (s : State) (j : Nat) : ∀ op ∈ workerRow s j, op.ofWorker = true := by
  have hround (d : Dir) (r : Nat) : (issue (roundPrim d j r)).ofWorker = true := by
    unfold roundPrim
    cases d <;> dsimp only <;> split <;> (try split) <;> rfl
  unfold workerRow
  split
  · simp
  · split
    · exact List.forall_mem_cons.2 ⟨rfl, List.forall_mem_singleton.2 rfl⟩
    · exact List.forall_mem_cons.2 ⟨hround _ _, List.forall_mem_singleton.2 rfl⟩
    · exact List.forall_mem_cons.2 ⟨rfl, List.forall_mem_singleton.2 rfl⟩

/-- `CONSTRUCT` leaves the key and its two schedules (44_facade R241). -/
theorem keyStoreOk_constructEnd {s : State} (he : s.eks = expandEnc s.key) (hd : s.dks = expandDec s.eks) :
    s.constructEnd.KeyStoreOk := fun _ => ⟨he, hd⟩

theorem keyStoreOk_of_not_keyed {s : State} (h : s.keyed = false) : s.KeyStoreOk := fun hk => absurd hk (by simp [h])

theorem keyStoreOk_of_zero {s : State} (hs : s.status = 0) : s.KeyStoreOk :=
  keyStoreOk_of_not_keyed (by simp [State.keyed, hs])

theorem keyed_destroyed (s : State) : (s.setKeyed false).redrawKeyStore.ret.keyed = false :=
  (withErrBit_keyed false _).trans (withKeyedBit_keyed false s.status)

theorem keyStoreInv_resetEvent (s : State) : s.resetEvent.KeyStoreInv :=
  ⟨seqOk_of_idle rfl rfl, keyStoreOk_of_zero rfl⟩

/-- What the host's accesses keep from `IDLE`: a command ends in `IDLE` or with its workers in `RUN`, and nothing in hand. -/
theorem keyStoreInv_access {i : Instr} {s t : State} (hp : s.phase = .idle) (hu : s.useq = []) (hk : s.KeyStoreOk)
    (hi : isPrim i = false) (h : ExecEffect i s t) : t.KeyStoreInv := by
  cases h with
  | failed _ e => exact ⟨seqOk_of_idle rfl hu, keyStoreOk_of_same (keyStoreSame_raise s e 0) hk⟩
  | constructed _ k t u => exact ⟨seqOk_of_idle rfl hu, keyStoreOk_constructEnd rfl rfl⟩
  | destroyed => exact ⟨seqOk_of_idle rfl hu, keyStoreOk_of_not_keyed (keyed_destroyed s)⟩
  | block => exact ⟨seqOk_of_idle rfl hu, keyStoreOk_of_same (s := s) ⟨rfl, rfl, rfl, withErrBit_keyed false s.status⟩ hk⟩
  | dispatched _ n d =>
    refine ⟨seqOk_of_run rfl fun op ho => ?_, hk⟩
    rw [show State.useq _ = [] from hu] at ho
    cases ho
  | read => exact ⟨seqOk_of_idle hp hu, hk⟩
  | written n v => cases n <;> exact ⟨seqOk_of_idle hp hu, hk⟩
  | data d v hd => simp [isPrim_of_dataResult hd] at hi
  | loaded j addr e | stored addr j e => subst e; cases hi
  | faulted hp => simp [hp] at hi

theorem keyStoreInv_hostEvent {e : HostEvent} {s t : State} (hp : s.phase = .idle) (hu : s.useq = []) (hk : s.KeyStoreOk)
    (h : stepHostEvent e s = .next t) : t.KeyStoreInv := by
  rcases stepHostEvent_cases h with ⟨i, hi, h⟩ | ⟨a, bs, rfl⟩ | ⟨r, rfl⟩ | rfl
  · exact keyStoreInv_access hp hu hk hi h
  · exact ⟨seqOk_of_idle hp hu, hk⟩
  · exact ⟨seqOk_of_idle hp hu, hk⟩
  · exact keyStoreInv_resetEvent s

theorem keyStoreInv_runStep {s : State} (hp : s.phase = .run) (hu : s.useq = []) (hk : s.KeyStoreOk) :
    s.runStep.KeyStoreInv := by
  rcases runStep_cases s with ⟨-, h⟩ | h | ⟨j, h⟩ <;> rw [h]
  · exact keyStoreInv_resetEvent _
  · exact ⟨seqOk_of_join rfl (.inl hu), hk⟩
  · exact ⟨seqOk_of_run hp (ofWorker_workerRow s j), hk⟩

/-- A micro-operation stands in hand only while the workers run, where it is a worker's, and for the join. -/
theorem keyStoreInv_microOp {op : MicroOp} {ops : List MicroOp} {s t : State} (hs : s.KeyStoreInv) (hu : s.useq = op :: ops)
    (h : doMicroOp op { s with useq := ops } = .next t) : t.KeyStoreInv := by
  obtain ⟨hq, hk⟩ := hs
  rcases seqOk_inHand hq hu with ⟨hp, ho⟩ | ⟨hp, rfl, rfl⟩
  · obtain ⟨m, ms, ws, rfl⟩ := doMicroOp_ofWorker (ho op (by simp)) h
    exact ⟨seqOk_of_run hp fun x hx => ho x (List.mem_cons_of_mem op hx), hk⟩
  · cases h
    exact ⟨seqOk_of_idle (phase_joinCall _) (useq_joinCall _), keyStoreOk_of_same (keyStoreSame_joinCall _) hk⟩

/-- Settles O30, by the place where the step finds its operation. -/
theorem stepKeepsKeyStore : Obligations.StepKeepsKeyStore := by
  intro s t hs h
  obtain ⟨hq, hk⟩ := hs
  rcases step_cases h with ⟨op, ops, hu, h⟩ | ⟨hu, ⟨hp, ⟨-, rfl⟩ | ⟨e, q, -, h⟩⟩ | ⟨hp, rfl⟩ | ⟨hi, hr, rfl⟩⟩
  · exact keyStoreInv_microOp ⟨hq, hk⟩ hu h
  · exact ⟨hq, hk⟩
  · exact keyStoreInv_hostEvent (s := { s with hostq := q }) hp hu hk h
  · exact keyStoreInv_runStep hp hu hk
  · have hp := seqOk_busy hq hi hr
    exact ⟨seqOk_of_join hp (.inr (by simp [seqRow, hp])), hk⟩

/-! ### The registers the host writes -/

theorem hostRegsEq_command {i : Instr} {s t : State} (hc : isCommand i = true) (h : ExecEffect i s t) : s.HostRegsEq t := by
  have hp := isPrim_of_issues (.inl rfl) hc
  cases h with
  | failed | constructed | destroyed | block | dispatched => exact ⟨rfl, rfl, rfl, rfl, rfl, rfl⟩
  | read n e | written n v e => subst e; cases hc
  | data d v hd => simp [isPrim_of_dataResult hd] at hp
  | loaded j addr e | stored addr j e => subst e; cases hc
  | faulted hf => simp [hf] at hp

theorem hostRegsEq_microOp {op : MicroOp} {ops : List MicroOp} {s t : State} (hs : s.SeqOk) (hu : s.useq = op :: ops)
    (h : doMicroOp op { s with useq := ops } = .next t) : s.HostRegsEq t := by
  rcases seqOk_inHand hs hu with ⟨-, ho⟩ | ⟨-, rfl, rfl⟩
  · obtain ⟨m, ms, ws, rfl⟩ := doMicroOp_ofWorker (ho op (by simp)) h
    exact ⟨rfl, rfl, rfl, rfl, rfl, rfl⟩
  · cases h
    exact hostRegsEq_joinCall _

theorem hostRegsEq_runStep {s : State} (h : s.sched.head? ≠ some .reset) : s.HostRegsEq s.runStep := by
  rcases runStep_cases s with ⟨hc, -⟩ | e | ⟨j, e⟩
  · exact absurd hc h
  · rw [e]; exact ⟨rfl, rfl, rfl, rfl, rfl, rfl⟩
  · rw [e]; exact ⟨rfl, rfl, rfl, rfl, rfl, rfl⟩

/-- Settles O40: a command writes none of them; outside `IDLE` only workers, the join and a reset move. -/
theorem commandsKeepHostRegisters : Obligations.CommandsKeepHostRegisters := by
  refine ⟨fun i s t hc h => hostRegsEq_command hc (exec_effect h), fun s t hs hi hreset h => ?_⟩
  rcases step_cases h with ⟨op, ops, hu, h⟩ | ⟨hu, ⟨hp, -⟩ | ⟨hp, rfl⟩ | ⟨-, -, rfl⟩⟩
  · exact hostRegsEq_microOp hs hu h
  · exact absurd hp hi
  · exact hostRegsEq_runStep (hreset hp hu)
  · exact ⟨rfl, rfl, rfl, rfl, rfl, rfl⟩

/-! ### Reset -/

/-- Settles O24: `STATUS` is 0, so neither `ERR` nor `KEYED` is set, and no worker exists. -/
theorem resetMeetsInvariants : Obligations.ResetMeetsInvariants := by
  refine ⟨⟨rfl, rfl⟩, ?_, ?_, ?_, ⟨rfl, rfl⟩, workersOk_nil rfl⟩
  · exact statusOk_of_zero rfl rfl rfl
  · exact ⟨Nat.two_pow_pos _, Nat.two_pow_pos _, Nat.two_pow_pos _⟩
  · exact ⟨seqOk_of_idle rfl rfl, keyStoreOk_of_zero rfl⟩

/-- An abandoned call leaves every byte outside its destination range alone (70_reset R301). -/
theorem memByte_redrawBlocks_outside (p : Platform) (dst n c a : Nat) (m : List Host.Cell)
    (h : a < dst ∨ dst + 16 * n ≤ a) : memByte (redrawBlocks p dst n c m) a = memByte m a := by
  induction n with
  | zero => rfl
  | succ n ih =>
    rw [redrawBlocks_succ]
    split
    · rw [memByte_write_outside _ _ _ _ (by omega), ih (by omega)]
    · exact ih (by omega)

/-- Settles O56: the reset event puts each of the listed registers to its value, whatever state it meets. -/
theorem resetValues : Obligations.ResetValues := by
  refine ⟨?_, fun s q hs hq => ?_, fun s hp hu hc => ?_⟩
  · exact ⟨rfl, rfl, rfl, rfl, rfl, rfl, rfl, rfl, rfl, rfl⟩
  · obtain ⟨hp, hu⟩ := hs
    refine ⟨State.resetEvent { s with hostq := q }, ?_, ⟨rfl, rfl, rfl, rfl, rfl, rfl, rfl, rfl, rfl, rfl⟩, rfl, rfl, rfl, rfl⟩
    simp [step, stepOf, stepIdle, stepHostEvent, hp, hu, hq]
  · refine ⟨{ s.abandonCall with sched := s.sched.tail }, ?_, ⟨rfl, rfl, rfl, rfl, rfl, rfl, rfl, rfl, rfl, rfl⟩,
      rfl, rfl, rfl, fun a ha => memByte_redrawBlocks_outside _ _ _ _ _ _ ha⟩
    simp [step, stepOf, State.runStep, hp, hu, List.headD_eq_head?_getD, hc]

end Sys2Proof.Proofs

/-! PROOF. Buffer memory (20_memory): admission, who writes it, and what a call leaves in it for the host to read. The run of a call
is followed once, for admitted and refused blocks alike, from the dispatch to the join. -/

namespace Sys2Proof.Proofs

open Sys2Proof.Machine Sys2Proof.Laws

/-! ### Block accesses -/

/-- Settles O19: the check counts the 16 addresses from 0 to 15. -/
theorem admissionOfAccess : Obligations.AdmissionOfAccess := by
  intro p a
  simp only [admitted, Bool.and_eq_true, decide_eq_true_eq, List.all_eq_true, List.mem_range]

/-- Settles O22: of all the effects of an instruction only the store of `STBLK` reaches memory. -/
theorem onlyStblkWritesMemory : Obligations.OnlyStblkWritesMemory := by
  intro i s t hi h
  cases exec_effect h with
  | stored addr j e => exact absurd e (hi addr j)
  | data d v => exact writeReg_mem s d v
  | written n v => cases n <;> rfl
  | failed | constructed | destroyed | block | dispatched | read | loaded | faulted => rfl

/-- The host can read a buffer of `n` blocks whose every block is admitted. -/
theorem memValid_of_admitted {p : Platform} {a n k : Nat} (h : ∀ i, i < n → admitted p (a + 16 * i) = true)
    (hk : k < 16 * n) : memValid p (a + k) = true := by
  have hv := ((admissionOfAccess p _).1 (h (k / 16) (by omega))).2 (k % 16) (by omega)
  rwa [show a + 16 * (k / 16) + k % 16 = a + k by omega] at hv

theorem memRead_congr {m m' : List Host.Cell} {a : Nat} (h : ∀ k, k < 16 → memByte m (a + k) = memByte m' (a + k)) :
    memRead m a = memRead m' a := ofBytes_congr h

/-- A block store leaves a block that does not overlap it alone. -/
theorem memRead_write_outside (m : List Host.Cell) (a b : Nat) (V : Block) (h : b + 16 ≤ a ∨ a + 16 ≤ b) :
    memRead (memWrite m a V) b = memRead m b :=
  memRead_congr fun k hk => memByte_write_outside m a (b + k) V (by omega)

/-! ### Runs of several steps -/

/-- `n` steps of the machine. -/
abbrev run (n : Nat) (s : State) : Result := Host.Core.run Sys2Proof.core n s

theorem run_succ {s t : State} (n : Nat) (h : step s = .next t) : run (n + 1) s = run n t := by
  simp only [run, Host.Core.run]
  rw [show Sys2Proof.core.step s = .next t from h]

/-- The first step of a run that stops nowhere. -/
theorem run_succ_next {n : Nat} {s u : State} (h : run (n + 1) s = .next u) :
    ∃ t, step s = .next t ∧ run n t = .next u := by
  cases hs : step s with
  | next t => exact ⟨t, rfl, (run_succ n hs).symm.trans h⟩
  | fault f => simp [run, Host.Core.run, show Sys2Proof.core.step s = .fault f from hs] at h
  | refused f => simp [run, Host.Core.run, show Sys2Proof.core.step s = .refused f from hs] at h

theorem run_add {n : Nat} (m : Nat) {s t : State} (h : run n s = .next t) : run (n + m) s = run m t := by
  induction n generalizing s with
  | zero => cases h; rw [Nat.zero_add]
  | succ n ih =>
    obtain ⟨s', hs, h⟩ := run_succ_next h
    rw [Nat.add_right_comm, run_succ _ hs, ih h]

/-- What every step keeps, a run keeps. -/
theorem run_keeps {P : State → Prop} (hP : ∀ s t, P s → step s = .next t → P t) {n : Nat} {s t : State}
    (h : run n s = .next t) (hs : P s) : P t := by
  induction n generalizing s with
  | zero => cases h; exact hs
  | succ n ih =>
    obtain ⟨s', hst, h⟩ := run_succ_next h
    exact ih h (hP _ _ hs hst)

/-- A step with a micro-operation in hand does it. -/
theorem step_inHand {op : MicroOp} {ops : List MicroOp} {s : State} (hu : s.useq = op :: ops) :
    step s = doMicroOp op { s with useq := ops } := by
  simp only [step, stepOf, hu, stepMicroOp_eq]

/-- A step of the `RUN` phase with nothing in hand. -/
theorem step_run {s : State} (hp : s.phase = .run) (hu : s.useq = []) : step s = .next s.runStep := by
  simp only [step, stepOf, hu, hp]

/-- From the `JOIN` phase the join row is laid down and done (43_parallel R219). -/
theorem run_join {s : State} (hp : s.phase = .join) (hu : s.useq = []) : run 2 s = .next s.joinCall := by
  have hlay : step s = .next { s with useq := [.join] } := by simp only [step, stepOf, hu, hp, seqRow]
  have hjoin : step { s with useq := [.join] } = .next s.joinCall := by
    rw [step_inHand (ops := []) rfl]
    cases s
    cases hu
    rfl
  rw [run_succ 1 hlay, run_succ 0 hjoin]
  rfl

/-! ### One turn of a worker -/

theorem mem_runningWorkers {ws : List Worker} {j : Nat} :
    j ∈ runningWorkers ws ↔ ∃ w, ws[j]? = some w ∧ w.wstat = .run := by
  simp only [runningWorkers, List.mem_filter, List.mem_range]
  constructor
  · rintro ⟨hj, h⟩
    rw [List.getElem?_eq_getElem hj] at h ⊢
    exact ⟨_, rfl, by simpa using h⟩
  · rintro ⟨w, hw, hr⟩
    obtain ⟨hj, -⟩ := List.getElem?_eq_some_iff.1 hw
    exact ⟨hj, by simp [hw, hr]⟩

/-- The scheduler's choice is one of the running workers (43_parallel R216). -/
theorem pickWorker_mem {js : List Nat} (h : js ≠ []) (c : Nat) : pickWorker js c ∈ js := by
  have hlt : c % js.length < js.length := Nat.mod_lt _ (List.length_pos_of_ne_nil h)
  rw [pickWorker, List.getD_eq_getElem _ _ hlt]
  exact List.getElem_mem hlt

/-- With nothing in hand and no reset to come, either no worker runs and the core goes to the join, or some running worker's row is
laid down (43_parallel R214, R216, R219). -/
theorem runStep_noReset {s : State} (h : s.NoReset) :
    (∀ w ∈ s.workers, w.wstat ≠ .run) ∧ s.runStep = s.goto .join 0 ∨
      ∃ j w, s.workers[j]? = some w ∧ w.wstat = .run ∧
        s.runStep = { s with sched := s.sched.tail, useq := workerRow s j } := by
  have hturn : ∃ c, s.runStep = s.turn c := by
    unfold State.runStep
    cases hs : s.sched with
    | nil => exact ⟨0, rfl⟩
    | cons c cs =>
      cases c with
      | worker c => exact ⟨c, rfl⟩
      | reset => exact absurd rfl (h .reset (by simp [hs]))
  obtain ⟨c, hc⟩ := hturn
  rw [hc]
  unfold State.turn
  split
  · rename_i hnone
    refine .inl ⟨fun w hw hr => ?_, rfl⟩
    obtain ⟨j, hj⟩ := List.mem_iff_getElem?.1 hw
    have : j ∈ runningWorkers s.workers := mem_runningWorkers.2 ⟨w, hj, hr⟩
    simp [hnone] at this
  · rename_i hne
    obtain ⟨w, hw, hr⟩ := mem_runningWorkers.1 (pickWorker_mem hne c)
    exact .inr ⟨_, w, hw, hr, rfl⟩

/-- Everything a turn of the running worker `j` can do, `w` being its bookkeeping: the worker registers, the memory and the worker's
bookkeeping after it (43_parallel R217, R218). -/
inductive Turn (s : State) (j : Nat) (w : Worker) : List (Nat × Block) → List Host.Cell → Worker → Prop
  | loaded (hs : w.stage = .load) (ha : admitted s.platform (s.src + 16 * w.cur) = true) :
      Turn s j w (sparsePut unwrittenS s.sreg j (memRead s.mem (s.src + 16 * w.cur))) s.mem (workerLoaded w)
  | rounded (hs : w.stage = .rounds) :
      Turn s j w (sparsePut unwrittenS s.sreg j (roundValue s s.dir w.wrnd (s.readS j))) s.mem (workerRounded w)
  | stored (hs : w.stage = .store) (ha : admitted s.platform (s.dst + 16 * w.cur) = true) :
      Turn s j w s.sreg (memWrite s.mem (s.dst + 16 * w.cur) (s.readS j)) (workerStored w)
  | loadRefused (hs : w.stage = .load) (ha : admitted s.platform (s.src + 16 * w.cur) = false) :
      Turn s j w s.sreg s.mem { w with wstat := .fault }
  | storeRefused (hs : w.stage = .store) (ha : admitted s.platform (s.dst + 16 * w.cur) = false) :
      Turn s j w s.sreg s.mem { w with wstat := .fault }

/-- A bookkeeping operation moves a running worker on. -/
theorem modify_ifRunning {ws : List Worker} {j : Nat} {w : Worker} (hw : ws[j]? = some w) (hr : w.wstat = .run)
    (f : Worker → Worker) : ws.modify j (ifRunning f) = ws.set j (f w) := by
  rw [List.modify_eq_set_getElem?, hw]
  simp [ifRunning, hr]

/-- A worker that has just faulted stays as it is (43_parallel R218). -/
theorem modify_fault_ifRunning {ws : List Worker} {j : Nat} {w : Worker} (hw : ws[j]? = some w) (f : Worker → Worker) :
    (ws.modify j (fun w => { w with wstat := .fault })).modify j (ifRunning f) = ws.set j { w with wstat := .fault } := by
  obtain ⟨hj, rfl⟩ := List.getElem?_eq_some_iff.1 hw
  simp [List.modify_eq_set_getElem?, ifRunning, hj]

/-- Two micro-operations in hand, the first a primitive. -/
theorem run_row {i : Instr} {op : MicroOp} {s t u : State} (hi : isPrim i = true) (hw : i.wf 0 = true)
    (hprim : exec i { s with useq := [op] } = .next t) (hu : t.useq = [op]) (hop : doMicroOp op { t with useq := [] } = .next u) :
    run 2 { s with useq := [issue i, op] } = .next u := by
  have h1 : step { s with useq := [issue i, op] } = .next t := by
    rw [step_inHand (ops := [op]) rfl, doMicroOp_issue i _ hi hw]
    exact hprim
  rw [run_succ 1 h1, run_succ 0 ((step_inHand hu).trans hop)]
  rfl

/-- The row of a running worker, done: a turn, whatever the scheduler's list `sc` is by then. -/
theorem run_workerRow {s : State} {j : Nat} {w : Worker} (sc : List Choice) (hu : s.useq = []) (hw : s.workers[j]? = some w)
    (hr : w.wstat = .run) :
    ∃ sr m w', Turn s j w sr m w' ∧
      run 2 { s with sched := sc, useq := workerRow s j } =
        .next { s with sched := sc, sreg := sr, mem := m, workers := s.workers.set j w' } := by
  have hmove := modify_ifRunning hw hr
  have hstay := modify_fault_ifRunning hw
  cases hs : w.stage with
  | load =>
    rw [show workerRow s j = [issue (.ldblk j (s.src + 16 * w.cur)), .loaded j] by simp [workerRow, hw, hs]]
    cases ha : admitted s.platform (s.src + 16 * w.cur) with
    | true =>
      exact ⟨_, _, _, .loaded hs ha, run_row (s := { s with sched := sc }) rfl rfl (if_pos ha) rfl
        (by simp [doMicroOp, State.updateWorker, State.writeS, hmove, hu])⟩
    | false =>
      exact ⟨_, _, _, .loadRefused hs ha, run_row (s := { s with sched := sc }) rfl rfl
        (if_neg (by simp [ha])) rfl
        (by simp [doMicroOp, State.updateWorker, State.faultWorker, hstay, hu])⟩
  | rounds =>
    rw [show workerRow s j = [issue (roundPrim s.dir j w.wrnd), .rounded j] by simp [workerRow, hw, hs]]
    obtain ⟨hprim, hwf⟩ := roundPrim_ok s.dir j w.wrnd
    exact ⟨_, _, _, .rounded hs, run_row (s := { s with sched := sc }) hprim hwf (exec_roundPrim _ _ _ _) rfl
      (by simp [doMicroOp, State.updateWorker, State.writeS, hmove, hu]; rfl)⟩
  | store =>
    rw [show workerRow s j = [issue (.stblk (s.dst + 16 * w.cur) j), .stored j] by simp [workerRow, hw, hs]]
    cases ha : admitted s.platform (s.dst + 16 * w.cur) with
    | true =>
      exact ⟨_, _, _, .stored hs ha, run_row (s := { s with sched := sc }) rfl rfl (if_pos ha) rfl
        (by simp [doMicroOp, State.updateWorker, hmove, hu]; rfl)⟩
    | false =>
      exact ⟨_, _, _, .storeRefused hs ha, run_row (s := { s with sched := sc }) rfl rfl
        (if_neg (by simp [ha])) rfl
        (by simp [doMicroOp, State.updateWorker, State.faultWorker, hstay, hu])⟩


/-! ### What holds between the turns of a call -/

theorem rangeLo_mono (base extra : Nat) : Monotone (rangeLo base extra) :=
  monotone_nat_of_le_succ (rangeLo_le_succ base extra)

/-- The ranges of the workers lie inside the call (43_parallel R213). -/
theorem hi_le_nblk {t : State} (ht : t.WorkersOk) {j : Nat} {w : Worker} (hw : t.workers[j]? = some w) : w.hi ≤ t.nblk := by
  obtain ⟨hj, -⟩ := List.getElem?_eq_some_iff.1 hw
  obtain ⟨hall, hnil | ⟨hlen, hend⟩⟩ := ht
  · simp [hnil] at hj
  · rw [(hall j w hw).2.2, ← hend]
    exact rangeLo_mono _ _ (by omega)

/-- Some worker has stored block `i`. -/
def blockDone (ws : List Worker) (i : Nat) : Prop := ∃ (j : Nat) (w : Worker), ws[j]? = some w ∧ w.lo ≤ i ∧ i < w.cur

theorem blockDone_set {ws : List Worker} {j : Nat} (hj : j < ws.length) (v : Worker) (i : Nat) :
    blockDone (ws.set j v) i ↔
      (∃ (k : Nat) (w : Worker), k ≠ j ∧ ws[k]? = some w ∧ w.lo ≤ i ∧ i < w.cur) ∨ v.lo ≤ i ∧ i < v.cur := by
  constructor
  · rintro ⟨k, w, hk, hi⟩
    by_cases e : j = k
    · subst e
      rw [List.getElem?_set_self hj] at hk
      cases hk
      exact .inr hi
    · rw [List.getElem?_set_ne e] at hk
      exact .inl ⟨k, w, Ne.symm e, hk, hi⟩
  · rintro (⟨k, w, e, hk, hi⟩ | hi)
    · exact ⟨k, w, (List.getElem?_set_ne (Ne.symm e)).trans hk, hi⟩
    · exact ⟨j, v, List.getElem?_set_self hj, hi⟩

/-- What moving worker `j` on does to the blocks stored. -/
theorem blockDone_moved {ws : List Worker} {j : Nat} {w v : Worker} (hw : ws[j]? = some w) (hlo : v.lo = w.lo)
    (hle : w.cur ≤ v.cur) (i : Nat) : blockDone (ws.set j v) i ↔ blockDone ws i ∨ w.lo ≤ i ∧ w.cur ≤ i ∧ i < v.cur := by
  obtain ⟨hj, e⟩ := List.getElem?_eq_some_iff.1 hw
  have hself : ws.set j w = ws := by rw [← e]; exact List.set_getElem_self hj
  rw [← hself, List.set_set, blockDone_set hj, blockDone_set hj, hlo, or_assoc]
  exact or_congr_right (by omega)

theorem blockDone_lt {t : State} (ht : t.WorkersOk) {i : Nat} (h : blockDone t.workers i) : i < t.nblk := by
  obtain ⟨j, w, hw, -, hi⟩ := h
  obtain ⟨-, hcur, -⟩ := (ht.1 j w hw).1
  have := hi_le_nblk ht hw
  omega

/-- The block a running worker is at has been stored by nobody: the ranges are disjoint (43_parallel R213). -/
theorem not_blockDone_cur {t : State} (ht : t.WorkersOk) {j : Nat} {w : Worker} (hw : t.workers[j]? = some w)
    (hr : w.wstat = .run) : ¬ blockDone t.workers w.cur := by
  rintro ⟨k, v, hv, hlo, hcur⟩
  obtain ⟨⟨hwlo, -, -, hwhi, -⟩, ewlo, ewhi⟩ := ht.1 j w hw
  obtain ⟨⟨-, hvhi, -⟩, evlo, evhi⟩ := ht.1 k v hv
  have hwhi := hwhi hr
  rcases Nat.lt_trichotomy j k with hjk | rfl | hkj
  · have := rangeLo_mono t.base t.extra (show j + 1 ≤ k by omega)
    omega
  · rw [hw] at hv
    cases hv
    omega
  · have := rangeLo_mono t.base t.extra (show k + 1 ≤ j by omega)
    omega

/-- Memory during a call issued in `s`, once the blocks in `done` are stored: they hold the transformed source of the memory at
the issue, and every other byte is as it was (43_parallel R221). -/
def CallMemory (s : State) (d : Dir) (done : Nat → Prop) (m : List Host.Cell) : Prop :=
  (∀ i, done i → memRead m (s.dst + 16 * i) = s.blockOp d (memRead s.mem (s.src + 16 * i))) ∧
  (∀ a, (∀ i, done i → a < s.dst + 16 * i ∨ s.dst + 16 * i + 16 ≤ a) → memByte m a = memByte s.mem a)

theorem CallMemory.congr {s : State} {d : Dir} {p q : Nat → Prop} {m : List Host.Cell} (h : CallMemory s d p m)
    (hpq : ∀ i, q i ↔ p i) : CallMemory s d q m := by
  rwa [show q = p from funext fun i => propext (hpq i)]

/-- One more block is stored. -/
theorem CallMemory.store {s : State} {d : Dir} {p : Nat → Prop} {m : List Host.Cell} (h : CallMemory s d p m)
    (hm : memWf m = true) (c : Nat) :
    CallMemory s d (fun i => p i ∨ i = c)
      (memWrite m (s.dst + 16 * c) (s.blockOp d (memRead s.mem (s.src + 16 * c)))) := by
  obtain ⟨hwritten, huntouched⟩ := h
  refine ⟨fun i hi => ?_, fun a ha => ?_⟩
  · by_cases e : i = c
    · subst e
      exact memRead_write _ _ hm
    · rw [memRead_write_outside _ _ _ _ (by omega)]
      exact hwritten i (hi.resolve_right e)
  · rw [memByte_write_outside _ _ _ _ (ha c (.inr rfl))]
    exact huntouched a fun i hi => ha i (.inl hi)

/-- The source of a block that is still to do is as it was at the issue: source and destination coincide or do not overlap
(20_memory R67). -/
theorem CallMemory.source {s : State} {d : Dir} {p : Nat → Prop} {m : List Host.Cell} (h : CallMemory s d p m) {n c : Nat}
    (hdef : callDefined s.src s.dst (16 * n) = true) (hp : ∀ i, p i → i < n) (hc : c < n) (hnot : ¬ p c) :
    memRead m (s.src + 16 * c) = memRead s.mem (s.src + 16 * c) := by
  simp only [callDefined, Bool.or_eq_true, decide_eq_true_eq] at hdef
  refine memRead_congr fun k hk => h.2 _ fun i hi => ?_
  have hin := hp i hi
  have hne : i ≠ c := fun e => hnot (e ▸ hi)
  omega

/-- What the register of a worker of a call issued in `s` must hold, `x` being its value: the block it is at, so many rounds on
(43_parallel R217). -/
def InHand (s : State) (d : Dir) (w : Worker) (x : Block) : Prop :=
  match w.stage with
  | .load => True
  | .rounds => admitted s.platform (s.src + 16 * w.cur) = true ∧
      x = (List.range w.wrnd).foldl (fun x r => roundValue s d r x) (memRead s.mem (s.src + 16 * w.cur))
  | .store => admitted s.platform (s.src + 16 * w.cur) = true ∧ x = s.blockOp d (memRead s.mem (s.src + 16 * w.cur))

/-- A worker of a call issued in `s`, whose register holds `x`: it has passed admitted blocks only, and it is in `FAULT` exactly at
a block that is not (43_parallel R218). -/
structure WorkerOnCall (s : State) (d : Dir) (w : Worker) (x : Block) : Prop where
  started : w.wstat ≠ .idle
  passed : ∀ i, w.lo ≤ i → i < w.cur → s.blockAdmitted i = true
  refused : w.wstat = .fault → w.cur < w.hi ∧ s.blockAdmitted w.cur = false
  inHand : InHand s d w x

/-- The state in which the workers of a call issued in `s` start (44_facade R244, R245, 43_parallel R214). -/
def dispatched (s : State) (d : Dir) : State := ({ s with nblk := s.callBlocks, dir := d } : State).dispatchCall

/-- The invariant between the turns of a call issued in `s`. -/
structure OnCall (s : State) (d : Dir) (t : State) : Prop where
  frame : t = { dispatched s d with workers := t.workers, sreg := t.sreg, mem := t.mem, sched := t.sched }
  noReset : t.NoReset
  count : t.workers.length = s.callW
  memOk : t.MemOk
  workersOk : t.WorkersOk
  worker : ∀ j w, t.workers[j]? = some w → WorkerOnCall s d w (t.readS j)
  memory : CallMemory s d (blockDone t.workers) t.mem

theorem exec_callInstr {s : State} (d : Dir) (hs : s.CallLegal) : exec (callInstr d) s = .next (dispatched s d) := by
  obtain ⟨⟨hp, -⟩, -, hk, hb, hd⟩ := hs
  unfold State.callBlocks at hd
  have hstart : startCall d s = .next (dispatched s d) := by
    unfold startCall
    rw [if_neg (by simp [hb]), if_pos hd]
    rfl
  cases d <;> simp only [callInstr, exec, execEncrypt, execDecrypt, State.whenIdle, hp, State.whenKeyed, hk, if_true, hstart]

theorem mem_dispatched {s : State} {d : Dir} {j : Nat} {w : Worker} (h : (dispatched s d).workers[j]? = some w) :
    ∃ k, w = freshWorker (s.callBlocks / s.callW) (s.callBlocks % s.callW) k := by
  obtain ⟨k, -, hk⟩ := List.mem_map.1 (List.mem_of_getElem? h)
  exact ⟨k, hk.symm⟩

theorem onCall_dispatched {s : State} (d : Dir) (hs : s.CallLegal) (hr : s.NoReset) : OnCall s d (dispatched s d) where
  frame := rfl
  noReset := hr
  count := by simp [dispatched, State.dispatchCall, State.callW, State.callBlocks]
  memOk := hs.2.1
  workersOk := workersOk_dispatchCall _
  worker := fun j w hw => by
    obtain ⟨k, rfl⟩ := mem_dispatched hw
    refine ⟨?_, fun i hlo hcur => absurd hcur (Nat.not_lt.2 hlo), ?_, trivial⟩ <;> simp only [freshWorker] <;> split <;> nofun
  memory := by
    refine ⟨fun i hi => ?_, fun a _ => rfl⟩
    obtain ⟨j, w, hw, hlo, hcur⟩ := hi
    obtain ⟨k, rfl⟩ := mem_dispatched hw
    exact absurd hcur (Nat.not_lt.2 hlo)

section OnCall

variable {s t : State} {d : Dir}

theorem OnCall.platform (h : OnCall s d t) : t.platform = s.platform := (congrArg State.platform h.frame).trans rfl

theorem OnCall.src (h : OnCall s d t) : t.src = s.src := (congrArg State.src h.frame).trans rfl

theorem OnCall.dst (h : OnCall s d t) : t.dst = s.dst := (congrArg State.dst h.frame).trans rfl

theorem OnCall.nblk (h : OnCall s d t) : t.nblk = s.callBlocks := congrArg State.nblk h.frame

theorem OnCall.dir (h : OnCall s d t) : t.dir = d := congrArg State.dir h.frame

theorem OnCall.phase (h : OnCall s d t) : t.phase = .run := congrArg State.phase h.frame

theorem OnCall.useq (h : OnCall s d t) (hs : s.CallLegal) : t.useq = [] := (congrArg State.useq h.frame).trans hs.1.2

theorem OnCall.roundValue_eq (h : OnCall s d t) : roundValue t = roundValue s :=
  roundValue_congr ((congrArg State.eks h.frame).trans rfl) ((congrArg State.dks h.frame).trans rfl)

end OnCall

/-! ### A turn keeps the invariant -/

/-- A round leaves a worker's range, its block and its status alone. -/
theorem workerRounded_same (w : Worker) : (workerRounded w).lo = w.lo ∧ (workerRounded w).hi = w.hi ∧
    (workerRounded w).cur = w.cur ∧ (workerRounded w).wstat = w.wstat := by
  unfold workerRounded
  split <;> exact ⟨rfl, rfl, rfl, rfl⟩

/-- A round moves the block in hand one round on; after round 10 it is transformed (42_blockcipher R192, R195). -/
theorem inHand_rounded {s : State} {d : Dir} {w : Worker} {x : Block} (hst : w.stage = .rounds) (hle : w.wrnd ≤ 10)
    (h : InHand s d w x) : InHand s d (workerRounded w) (roundValue s d w.wrnd x) := by
  simp only [InHand, hst] at h
  obtain ⟨hadm, rfl⟩ := h
  have hnext (b : Block) : roundValue s d w.wrnd ((List.range w.wrnd).foldl (fun x r => roundValue s d r x) b) =
      (List.range (w.wrnd + 1)).foldl (fun x r => roundValue s d r x) b := by simp [List.range_succ]
  rw [hnext]
  unfold workerRounded
  split
  · simp only [InHand, hst]
    exact ⟨hadm, trivial⟩
  · rw [show w.wrnd = 10 by omega, rounds_eq]
    exact ⟨hadm, rfl⟩

/-- The worker that had the turn has passed admitted blocks only, has stopped at a refused one, or holds what it should. -/
theorem workerOnCall_turn {s t : State} {d : Dir} {j : Nat} {w w' : Worker} {sr : List (Nat × Block)} {m : List Host.Cell}
    (hs : s.CallLegal) (h : OnCall s d t) (hw : t.workers[j]? = some w) (hr : w.wstat = .run) (hT : Turn t j w sr m w') :
    WorkerOnCall s d w' (sparseGet unwrittenS sr j) := by
  obtain ⟨-, -, -, -, hdef⟩ := hs
  obtain ⟨hstarted, hpassed, -, hin⟩ := h.worker j w hw
  obtain ⟨hlo, -, hle, hrun, -⟩ := (h.workersOk.1 j w hw).1
  have hlt := hrun hr
  have hnofault {p : Prop} : w.wstat = .fault → p := by simp [hr]
  have hfaulted (hno : s.blockAdmitted w.cur = false) : WorkerOnCall s d { w with wstat := .fault } (t.readS j) :=
    ⟨nofun, hpassed, fun _ => ⟨hlt, hno⟩, hin⟩
  cases hT with
  | loaded hst ha =>
    rw [sparseGet_put_same h.memOk.2, h.src]
    rw [h.platform, h.src] at ha
    have hc : w.cur < s.callBlocks := h.nblk ▸ Nat.lt_of_lt_of_le hlt (hi_le_nblk h.workersOk hw)
    refine ⟨hstarted, hpassed, hnofault, ha, ?_⟩
    exact h.memory.source hdef (fun i hi => h.nblk ▸ blockDone_lt h.workersOk hi) hc
      (not_blockDone_cur h.workersOk hw hr)
  | rounded hst =>
    rw [sparseGet_put_same h.memOk.2, h.roundValue_eq, h.dir]
    obtain ⟨elo, -, ecur, estat⟩ := workerRounded_same w
    refine ⟨?_, ?_, ?_, inHand_rounded hst hle hin⟩
    · rwa [estat]
    · rwa [elo, ecur]
    · rw [estat]; exact hnofault
  | stored hst ha =>
    simp only [InHand, hst] at hin
    rw [h.platform, h.dst] at ha
    refine ⟨?_, fun i hi hcur => ?_, ?_, trivial⟩
    · simp only [workerStored]; split <;> nofun
    · obtain rfl | hcur := Nat.eq_or_lt_of_le (Nat.le_of_lt_succ hcur)
      · simp [State.blockAdmitted, hin.1, ha]
      · exact hpassed i hi hcur
    · simp only [workerStored]; split <;> nofun
  | loadRefused hst ha =>
    rw [h.platform, h.src] at ha
    exact hfaulted (by simp [State.blockAdmitted, ha])
  | storeRefused hst ha =>
    rw [h.platform, h.dst] at ha
    exact hfaulted (by simp [State.blockAdmitted, ha])

/-- Memory and the blocks stored after a turn. -/
theorem callMemory_turn {s t : State} {d : Dir} {j : Nat} {w w' : Worker} {sr : List (Nat × Block)} {m : List Host.Cell}
    (h : OnCall s d t) (hw : t.workers[j]? = some w) (hT : Turn t j w sr m w') :
    CallMemory s d (blockDone (t.workers.set j w')) m := by
  have hsame {v : Worker} (hlo : v.lo = w.lo) (hcur : v.cur = w.cur) : CallMemory s d (blockDone (t.workers.set j v)) t.mem :=
    h.memory.congr fun i => (blockDone_moved hw hlo hcur.ge i).trans (or_iff_left (by omega))
  cases hT with
  | loaded | loadRefused | storeRefused => exact hsame rfl rfl
  | rounded =>
    obtain ⟨elo, -, ecur, -⟩ := workerRounded_same w
    exact hsame elo ecur
  | stored hst =>
    have hin := (h.worker j w hw).inHand
    simp only [InHand, hst] at hin
    rw [hin.2, h.dst]
    obtain ⟨hlo, -⟩ := (h.workersOk.1 j w hw).1
    have hcur : (workerStored w).cur = w.cur + 1 := rfl
    exact (h.memory.store h.memOk.1 w.cur).congr fun i =>
      (blockDone_moved (v := workerStored w) hw rfl (Nat.le_succ _) i).trans (or_congr_right (by omega))

/-- A turn reaches no worker register but the worker's own (43_parallel R224). -/
theorem readS_turn_other {t : State} {j k : Nat} {w w' : Worker} {sr : List (Nat × Block)} {m : List Host.Cell} (hk : k ≠ j)
    (hT : Turn t j w sr m w') : sparseGet unwrittenS sr k = t.readS k := by
  cases hT with
  | loaded | rounded => exact sparseGet_put_other hk
  | stored | loadRefused | storeRefused => rfl

/-- From a state between two turns: the workers have ended and the core goes to the join, or a running worker has its turn of three
steps. -/
theorem onCall_next {s t : State} {d : Dir} (hs : s.CallLegal) (h : OnCall s d t) :
    (∀ w ∈ t.workers, w.wstat ≠ .run) ∧ run 3 t = .next (t.goto .join 0).joinCall ∨
      ∃ j w sr m w', t.workers[j]? = some w ∧ w.wstat = .run ∧ Turn t j w sr m w' ∧
        run 3 t = .next { t with sched := t.sched.tail, sreg := sr, mem := m, workers := t.workers.set j w' } := by
  have hu := h.useq hs
  rcases runStep_noReset h.noReset with ⟨hend, e⟩ | ⟨j, w, hw, hr, e⟩
  · refine .inl ⟨hend, ?_⟩
    rw [run_succ 2 (step_run h.phase hu), e]
    exact run_join rfl hu
  · obtain ⟨sr, m, w', hT, hrun⟩ := run_workerRow t.sched.tail hu hw hr
    refine .inr ⟨j, w, sr, m, w', hw, hr, hT, ?_⟩
    rw [run_succ 2 (step_run h.phase hu), e]
    exact hrun

/-- A turn keeps the invariant; that memory and the bookkeeping stay in form, every step keeps. -/
theorem onCall_turn {s t : State} {d : Dir} {j : Nat} {w w' : Worker} {sr : List (Nat × Block)} {m : List Host.Cell}
    (hs : s.CallLegal) (h : OnCall s d t) (hw : t.workers[j]? = some w) (hr : w.wstat = .run) (hT : Turn t j w sr m w')
    (hrun : run 3 t = .next { t with sched := t.sched.tail, sreg := sr, mem := m, workers := t.workers.set j w' }) :
    OnCall s d { t with sched := t.sched.tail, sreg := sr, mem := m, workers := t.workers.set j w' } where
  frame := congrArg (fun x : State => { x with
    sched := t.sched.tail, sreg := sr, mem := m, workers := t.workers.set j w' }) h.frame
  noReset := fun c hc => h.noReset c (List.mem_of_mem_tail hc)
  count := List.length_set.trans h.count
  memOk := run_keeps stepKeepsMemoryForm hrun h.memOk
  workersOk := run_keeps stepKeepsWorkerBookkeeping hrun h.workersOk
  worker := fun k v hv => by
    by_cases e : j = k
    · subst e
      obtain rfl : w' = v := by simpa [List.getElem?_set_self (List.getElem?_eq_some_iff.1 hw).1] using hv
      exact workerOnCall_turn hs h hw hr hT
    · have hother : t.workers[k]? = some v := (List.getElem?_set_ne e).symm.trans hv
      rw [show State.readS _ k = t.readS k from readS_turn_other (Ne.symm e) hT]
      exact h.worker k v hother
  memory := callMemory_turn h hw hT

/-! ### A call reaches its join -/

/-- The turns of its present block a worker has had: of the 13 of a block one is the load, eleven are rounds and one is the store
(43_parallel R217). -/
def turnsInBlock (w : Worker) : Nat :=
  match w.stage with
  | .load => 0
  | .rounds => w.wrnd + 1
  | .store => 12

/-- The turns a worker has before it, if no access faults. -/
def turnsLeft (w : Worker) : Nat := if w.wstat = .run then 13 * (w.hi - w.cur) - turnsInBlock w else 0

theorem turnsLeft_le (w : Worker) : turnsLeft w ≤ 13 * (w.hi - w.cur) := by
  unfold turnsLeft
  split <;> omega

/-- Every turn brings its worker nearer to the end. -/
theorem turnsLeft_turn {t : State} {j : Nat} {w w' : Worker} {sr : List (Nat × Block)} {m : List Host.Cell} (hw : w.Ok)
    (hr : w.wstat = .run) (hT : Turn t j w sr m w') : turnsLeft w' < turnsLeft w := by
  obtain ⟨-, -, hle, hrun, -⟩ := hw
  have hlt := hrun hr
  have hnow : turnsLeft w = 13 * (w.hi - w.cur) - turnsInBlock w := if_pos hr
  have hfault : turnsLeft { w with wstat := .fault } = 0 := if_neg nofun
  cases hT with
  | loaded hst =>
    have hnext : turnsLeft (workerLoaded w) = 13 * (w.hi - w.cur) - 1 := if_pos hr
    simp only [turnsInBlock, hst] at hnow
    omega
  | rounded hst =>
    obtain ⟨-, ehi, ecur, estat⟩ := workerRounded_same w
    have hround : turnsInBlock (workerRounded w) = turnsInBlock w + 1 := by
      unfold workerRounded
      split <;> simp only [turnsInBlock, hst]
      omega
    have hnext : turnsLeft (workerRounded w) = 13 * (w.hi - w.cur) - (turnsInBlock w + 1) := by
      simp only [turnsLeft, estat, hr, ehi, ecur, hround, if_true]
    simp only [turnsInBlock, hst] at hnow hnext
    omega
  | stored hst =>
    have hnext : turnsLeft (workerStored w) ≤ 13 * (w.hi - (w.cur + 1)) := turnsLeft_le (workerStored w)
    simp only [turnsInBlock, hst] at hnow
    omega
  | loadRefused hst | storeRefused hst =>
    simp only [turnsInBlock, hst] at hnow
    omega

theorem sum_map_set_lt {α : Type} (f : α → Nat) {l : List α} {j : Nat} {x y : α} (hx : l[j]? = some x) (h : f y < f x) :
    ((l.set j y).map f).sum < (l.map f).sum := by
  induction l generalizing j with
  | nil => cases hx
  | cons z l ih =>
    cases j with
    | zero => cases hx; simpa using h
    | succ j => simpa using ih hx

/-- The turns of the first `n` workers at the dispatch: 13 a block of their ranges. -/
theorem turnsLeft_fresh (base extra n : Nat) :
    (((List.range n).map (freshWorker base extra)).map turnsLeft).sum ≤ 13 * rangeLo base extra n := by
  induction n with
  | zero => exact Nat.zero_le _
  | succ n ih =>
    have hle := rangeLo_le_succ base extra n
    have hlast : turnsLeft (freshWorker base extra n) ≤ 13 * (rangeLo base extra (n + 1) - rangeLo base extra n) :=
      turnsLeft_le _
    simp only [List.range_succ, List.map_append, List.sum_append, List.map_cons, List.map_nil, List.sum_singleton]
    omega

theorem turnsLeft_dispatched (s : State) (d : Dir) :
    ((dispatched s d).workers.map turnsLeft).sum ≤ 13 * s.callBlocks := by
  have h := turnsLeft_fresh (s.callBlocks / s.callW) (s.callBlocks % s.callW) s.callW
  rwa [rangeLo_end s.callBlocks s.callW (Nat.le_max_left _ _)] at h

/-- From any state between two turns the workers end, under every interleaving, and the core does its join. -/
theorem run_to_join {s t : State} {d : Dir} (hs : s.CallLegal) (h : OnCall s d t) (k : Nat)
    (hk : (t.workers.map turnsLeft).sum ≤ k) :
    ∃ n r, n ≤ 3 * k + 3 ∧ run n t = .next (r.goto .join 0).joinCall ∧ OnCall s d r ∧ ∀ w ∈ r.workers, w.wstat ≠ .run := by
  induction k using Nat.strong_induction_on generalizing t with
  | _ k ih =>
    rcases onCall_next hs h with ⟨hend, hrun⟩ | ⟨j, w, sr, m, w', hw, hr, hT, hrun⟩
    · exact ⟨3, t, by omega, hrun, h, hend⟩
    · have hless := Nat.lt_of_lt_of_le
        (sum_map_set_lt turnsLeft hw (turnsLeft_turn (h.workersOk.1 j w hw).1 hr hT)) hk
      obtain ⟨n, r, hn, hrest, hr⟩ := ih _ hless (onCall_turn hs h hw hr hT hrun) (Nat.le_refl _)
      exact ⟨3 + n, r, by omega, (run_add n hrun).trans hrest, hr⟩

/-- A legal call that no reset interrupts reaches its join, whatever blocks are admitted (43_parallel R216 to R219, R225); the bound
counts the model's own steps. -/
theorem call_reaches_join {s : State} (d : Dir) (hs : s.CallLegal) (hr : s.NoReset) :
    ∃ n r, n ≤ 39 * s.callBlocks + 3 ∧ run n (dispatched s d) = .next (r.goto .join 0).joinCall ∧ OnCall s d r ∧
      ∀ w ∈ r.workers, w.wstat ≠ .run := by
  obtain ⟨n, r, hn, h⟩ := run_to_join hs (onCall_dispatched d hs hr) _ (turnsLeft_dispatched s d)
  exact ⟨n, r, by omega, h⟩

/-! ### A call whose every block is admitted -/

/-- The ranges of the workers cover the blocks (43_parallel R213). -/
theorem exists_range {base extra n i : Nat} (h : i < rangeLo base extra n) :
    ∃ j, j < n ∧ rangeLo base extra j ≤ i ∧ i < rangeLo base extra (j + 1) := by
  induction n with
  | zero => simp [rangeLo] at h
  | succ n ih =>
    by_cases hlt : i < rangeLo base extra n
    · obtain ⟨j, hj, hi⟩ := ih hlt
      exact ⟨j, by omega, hi⟩
    · exact ⟨n, by omega, by omega, h⟩

/-- When every block is admitted no worker faults (43_parallel R218). -/
theorem no_fault {s r : State} {d : Dir} (h : OnCall s d r) (hadm : ∀ i, i < s.callBlocks → s.blockAdmitted i = true) :
    ∀ w ∈ r.workers, w.wstat ≠ .fault := by
  intro w hw hf
  obtain ⟨j, hj⟩ := List.mem_iff_getElem?.1 hw
  obtain ⟨hlt, hno⟩ := (h.worker j w hj).refused hf
  have := hi_le_nblk h.workersOk hj
  rw [hadm w.cur (by rw [← h.nblk]; omega)] at hno
  cases hno

/-- When all workers have ended without a fault, every block is stored. -/
theorem blockDone_of_ended {s r : State} {d : Dir} (h : OnCall s d r) (hend : ∀ w ∈ r.workers, w.wstat ≠ .run)
    (hok : ∀ w ∈ r.workers, w.wstat ≠ .fault) {i : Nat} (hi : i < s.callBlocks) : blockDone r.workers i := by
  obtain ⟨hall, hnil | ⟨hlen, hcover⟩⟩ := h.workersOk
  · have hcount := h.count
    have hpos : 1 ≤ s.callW := Nat.le_max_left _ _
    simp only [hnil, List.length_nil] at hcount
    omega
  rw [← h.nblk, ← hcover] at hi
  obtain ⟨j, hj, hlo, hhi⟩ := exists_range hi
  have hw := List.getElem?_eq_getElem (hlen ▸ hj)
  obtain ⟨⟨-, -, -, -, hdone⟩, elo, ehi⟩ := hall j _ hw
  refine ⟨j, _, hw, by omega, ?_⟩
  have hmem := List.getElem_mem (hlen ▸ hj)
  have hstat : r.workers[j].wstat = .done := by
    cases e : r.workers[j].wstat with
    | done => rfl
    | idle => exact absurd e (h.worker j _ hw).started
    | run => exact absurd e (hend _ hmem)
    | fault => exact absurd e (hok _ hmem)
  rw [hdone hstat]
  omega

theorem joinCall_of_no_fault {r : State} (h : ∀ w ∈ r.workers, w.wstat ≠ .fault) : r.joinCall = r.discardCall.ret := by
  rcases joinCall_cases r with ⟨-, e⟩ | ⟨f, hf, -⟩
  · exact e
  · obtain ⟨hlt, hfault, -⟩ := List.findIdx?_eq_some_iff_getElem.1 hf
    exact absurd (by simpa using hfault) (h _ (List.getElem_mem hlt))

/-- A legal call whose every block is admitted and that no reset interrupts ends with success: every block of the destination is
stored, and nothing of the host's side has moved (43_parallel R221, R225). -/
theorem call_succeeds {s : State} (d : Dir) (hs : s.CallLegal) (hr : s.NoReset)
    (hadm : ∀ i, i < s.callBlocks → s.blockAdmitted i = true) :
    ∃ n r, n ≤ 39 * s.callBlocks + 3 ∧ run n (dispatched s d) = .next (r.goto .join 0).discardCall.ret ∧ OnCall s d r ∧
      CallMemory s d (fun i => i < s.callBlocks) r.mem := by
  obtain ⟨n, r, hn, hrun, hcall, hend⟩ := call_reaches_join d hs hr
  have hok := no_fault hcall hadm
  refine ⟨n, r, hn, hrun.trans (congrArg _ (joinCall_of_no_fault hok)), hcall, hcall.memory.congr fun i => ?_⟩
  exact ⟨blockDone_of_ended hcall hend hok, fun hi => hcall.nblk ▸ blockDone_lt hcall.workersOk hi⟩

/-! ### The host reads what a call has stored -/

/-- A host read of bytes the platform has, between commands (70_reset R317). -/
theorem step_hostLoad {u : State} {a n : Nat} {q : List HostEvent} (hu : u.Quiet) (hq : u.hostq = .load a n :: q)
    (hv : ∀ k, k < n → memValid u.platform (a + k) = true) :
    step u = .next { u with hostq := q, resp := some (.memory a (memBytes u.mem a n)) } := by
  obtain ⟨hp, hu⟩ := hu
  simp only [step, stepOf, hu, hp, stepIdle, hq, stepHostEvent, State.hostLoad, (bytesExist_iff _ _ _).2 hv, if_true]

/-- Settles O55: the read that follows finds memory as the join left it, every block of the destination stored. -/
theorem hostReadsTheResultOfACall : Obligations.HostReadsTheResultOfACall := by
  intro s d q hs hr hadm hq
  obtain ⟨n, r, -, hrun, hcall, hwritten, -⟩ := call_succeeds d hs hr hadm
  have hdst (i : Nat) (hi : i < s.callBlocks) : admitted r.platform (s.dst + 16 * i) = true := by
    rw [hcall.platform]
    exact (Bool.and_eq_true_iff.1 (hadm i hi)).2
  have hquiet : (r.goto .join 0).discardCall.ret.Quiet := ⟨rfl, hcall.useq hs⟩
  have hhost : (r.goto .join 0).discardCall.ret.hostq = _ := ((congrArg State.hostq hcall.frame).trans rfl).trans hq
  refine ⟨_, n, _, _, _, exec_callInstr d hs, hrun, hquiet, rfl,
    step_hostLoad hquiet hhost fun k hk => memValid_of_admitted hdst hk, rfl, rfl, rfl, memBytes_length _ _ _, ?_⟩
  intro i k hi hk
  rw [List.getElem?_eq_getElem (by rw [memBytes_length]; omega), memBytes_getElem, ← hwritten i hi,
    byteOf_memRead _ _ _ hk, Nat.add_assoc]
  rfl

end Sys2Proof.Proofs

/-! PROOF. The three formats of 30_encoding: a word is its fields, the decoder undoes the encoder and the other way round, and
what `exec` and `step` do with the words the decoder answers or rejects. -/

namespace Sys2Proof.Proofs

open Sys2Proof.Machine Sys2Proof.Laws

/-! ### Words and their fields -/

/-- A command word whose `rsv` is 0 is made of its `op` and `mode` (30_encoding R91). -/
theorem commandWord_fields {w : BitVec 32} (h : w.extractLsb' 16 16 = 0) :
    commandWord (w.extractLsb' 0 8) (w.extractLsb' 8 8) = w := by
  unfold commandWord
  rw [← h, BitVec.extractLsb'_append_extractLsb'_eq_extractLsb' (show 16 = 8 + 8 from rfl),
    BitVec.extractLsb'_append_extractLsb'_eq_extractLsb' (show 8 = 0 + 8 from rfl)]
  exact BitVec.extractLsb'_eq_self

/-- A host header is made of its write bit and its register number (30_encoding R94). -/
theorem header_fields (h : BitVec 5) : h.extractLsb' 4 1 ++ h.extractLsb' 0 4 = h :=
  (BitVec.extractLsb'_append_extractLsb'_eq_extractLsb' rfl).trans BitVec.extractLsb'_eq_self

/-- A primitive word is made of its selector and its `imm8` (30_encoding R95). -/
theorem primWord_fields (w : BitVec 12) : primWord (w.extractLsb' 0 4) (w.extractLsb' 4 8) = w :=
  (BitVec.extractLsb'_append_extractLsb'_eq_extractLsb' rfl).trans BitVec.extractLsb'_eq_self

theorem CR_ofNum_num (n : CR) : CR.ofNum n.num.toNat = some n := by cases n <;> rfl

/-! ### Decoding what the encoder answers -/

/-- A host access with the number of a register is a write whose payload fits, or a read without one (30_encoding R94). -/
theorem decodeAccess_num (aw : Nat) (b : BitVec 1) (n : CR) (p : Nat) :
    decodeAccess aw (b ++ n.num) p =
      if b = 1 then if p < 2 ^ n.width aw then .ok (.crwrite n p) else .error .badPayload
      else if p = 0 then .ok (.crread n) else .error .badPayload := by
  simp only [decodeAccess, BitVec.extractLsb'_append_eq_left, BitVec.extractLsb'_append_eq_right, CR_ofNum_num]

/-- A host access with a number from 11 up names no register (30_encoding R98). -/
theorem decodeAccess_reserved (aw : Nat) (b : BitVec 1) {n : BitVec 4} (p : Nat) (h : 11 ≤ n.toNat) :
    decodeAccess aw (b ++ n) p = .error (.reservedRegister n.toNat) := by
  simp only [decodeAccess, BitVec.extractLsb'_append_eq_right, CR_ofNum_reserved h]

/-- Only a payload has a width that depends on AW. -/
theorem wf_of_isPrim {i : Instr} (aw : Nat) (hp : isPrim i = true) : i.wf aw = i.wf 0 := by
  cases i with
  | crwrite => cases hp
  | _ => rfl

/-- The word that is issued for a primitive is its encoding. -/
theorem encode_of_issue {i : Instr} {w : BitVec 12} {r : Route} (h : issue i = .prim w r) : encode i = .p w r := by
  unfold issue at h
  split at h <;> cases h
  assumption

theorem decode_encode_prim {aw : Nat} {i : Instr} (hp : isPrim i = true) (hw : i.wf aw = true) :
    decode aw (encode i) = .ok i := by
  obtain ⟨w, r, hi, hd⟩ := issue_decodes i hp ((wf_of_isPrim aw hp).symm.trans hw)
  rw [encode_of_issue hi]
  exact hd

/-- Settles O1, format by format: command words are literals, an access is read field by field, and a primitive decodes as it is
issued. -/
theorem decodeEncodeRoundTrip : Obligations.DecodeEncodeRoundTrip := by
  intro aw i hw
  cases i with
  | construct | encb | decb | destroy => rfl
  | encrypt m | decrypt m => cases m; rfl
  | crread n => exact decodeAccess_num aw 0 n 0
  | crwrite n v => exact (decodeAccess_num aw 1 n v).trans (if_pos (of_decide_eq_true hw))
  | _ => exact decode_encode_prim rfl hw

/-! ### Encoding what the decoder answers -/

/-- What a command word decodes to is a command whose encoding the word is, in its three fields (30_encoding R91, R92). -/
theorem encode_wf_of_decodeCommand {w : BitVec 32} {i : Instr} (hd : decodeCommand w = .ok i) :
    encode i = .c w ∧ ∀ aw, i.wf aw = true := by
  rcases decodeCommand_cases w with ⟨he, -⟩ | ⟨hrsv, hmode, h⟩
  · cases he.symm.trans hd
  rw [← commandWord_fields hrsv, hmode]
  rcases h with ⟨hop, h⟩ | ⟨hop, h⟩ | ⟨hop, h⟩ | ⟨hop, h⟩ | ⟨hop, h⟩ | ⟨hop, h⟩ <;>
    (cases h.symm.trans hd; rw [hop]; exact ⟨rfl, fun _ => rfl⟩)

theorem encode_wf_of_decodeAccess {aw : Nat} {h : BitVec 5} {p : Nat} {i : Instr} (hd : decodeAccess aw h p = .ok i) :
    encode i = .h h p ∧ i.wf aw = true := by
  obtain ⟨r, hnum, ⟨hbit, hp, rfl⟩ | ⟨hbit, rfl, rfl⟩⟩ := decodeAccess_ok hd <;>
    rw [← header_fields h, ← hnum, hbit]
  · exact ⟨rfl, decide_eq_true hp⟩
  · exact ⟨rfl, rfl⟩

/-- The encoder's word for a selected primitive has the selector and the `imm8` of the word that selected it (30_encoding R95). -/
theorem encode_of_decodePrim {w : BitVec 12} {r : Route} {i : Instr} (hd : decodePrim w r = .ok i) :
    ∃ r', encode i = .p w r' := by
  rw [← primWord_fields w]
  rcases selectPrim_cases (decodePrim_ok hd).1 with ⟨hsel, rfl⟩ | ⟨himm, h⟩
  · rw [hsel]
    exact ⟨_, rfl⟩
  · rw [himm]
    rcases h with ⟨hsel, rfl⟩ | ⟨hsel, rfl⟩ | ⟨hsel, rfl⟩ | ⟨hsel, rfl⟩ | ⟨hsel, rfl⟩ | ⟨hsel, rfl⟩ | ⟨hsel, rfl⟩ |
        ⟨hsel, rfl⟩ | ⟨hsel, rfl⟩ | ⟨hsel, rfl⟩ <;>
      (rw [hsel]; exact ⟨_, rfl⟩)

theorem wf_of_decode {aw : Nat} {e : Encoded} {i : Instr} (hd : decode aw e = .ok i) : i.wf aw = true := by
  cases e with
  | c w => exact (encode_wf_of_decodeCommand hd).2 aw
  | h header p => exact (encode_wf_of_decodeAccess hd).2
  | p w r => exact (wf_of_isPrim aw (decodePrim_prim hd).1).trans (decodePrim_ok hd).2

/-- Settles O2: the fields a decoder has read make up the word again, and are those the encoder writes. -/
theorem eachWordHasOneMeaning : Obligations.EachWordHasOneMeaning :=
  ⟨fun _ _ _ => wf_of_decode, fun _ _ hd => (encode_wf_of_decodeCommand hd).1, fun _ _ _ _ hd => (encode_wf_of_decodeAccess hd).1,
    fun _ _ _ => encode_of_decodePrim⟩

/-- Settles O3: the decoders compute on the twelve words. -/
theorem sampleWordsDecode : Obligations.SampleWordsDecode :=
  ⟨rfl, rfl, rfl, rfl, rfl, rfl, rfl, rfl, rfl, rfl, rfl, rfl⟩

/-! ### What the words do -/

/-- The illegal command words (30_encoding R97). -/
theorem decodeCommand_illegal_iff (w : BitVec 32) :
    (¬ (1 ≤ (w.extractLsb' 0 8).toNat ∧ (w.extractLsb' 0 8).toNat ≤ 6) ∨ w.extractLsb' 16 16 ≠ 0 ∨ w.extractLsb' 8 8 ≠ 0) ↔
      decodeCommand w = .error (.illegalCommand w) := by
  rcases decodeCommand_cases w with ⟨hd, hill⟩ | ⟨hrsv, hmode, h⟩
  · exact iff_of_true hill hd
  have hlegal : (1 ≤ (w.extractLsb' 0 8).toNat ∧ (w.extractLsb' 0 8).toNat ≤ 6) ∧ ∃ i, decodeCommand w = .ok i := by
    rcases h with ⟨hop, h⟩ | ⟨hop, h⟩ | ⟨hop, h⟩ | ⟨hop, h⟩ | ⟨hop, h⟩ | ⟨hop, h⟩ <;> exact ⟨by rw [hop]; decide, _, h⟩
  obtain ⟨hop, i, hd⟩ := hlegal
  exact iff_of_false (not_or.2 ⟨not_not.2 hop, by simp [hrsv, hmode]⟩) (by simp [hd])

/-- A write to `CMD` between commands issues the word (44_facade R254). -/
theorem exec_crwrite_cmd {s : State} (w : BitVec 32) (hs : s.phase = .idle) :
    exec (.crwrite .cmd w.toNat) s = issueCommand w s := by
  simp [exec, execCrwrite, State.whenIdle, hs]

/-- A write to any other register between commands writes it or is ignored (44_facade R254). -/
theorem exec_crwrite {n : CR} {s : State} (v : Nat) (hs : s.phase = .idle) (hn : n ≠ .cmd) :
    exec (.crwrite n v) s = .next (s.writeCR n v) := by
  cases n with
  | cmd => exact absurd rfl hn
  | _ => simp [exec, execCrwrite, State.whenIdle, hs]

/-- Settles O4: the write issues the word, and what issuing an illegal word raises is `IllegalCommand` (60_exceptions R274). -/
theorem illegalCommandWord : Obligations.IllegalCommandWord := by
  refine fun w s hs => ⟨decodeCommand_illegal_iff w, fun hd => (exec_crwrite_cmd w hs).trans ?_⟩
  unfold issueCommand
  rw [hd]
  rfl

/-- A step between commands does the host's next operation (70_reset R317). -/
theorem step_hostEvent {s : State} {e : HostEvent} {q : List HostEvent} (hs : s.Quiet) (hq : s.hostq = e :: q) :
    step s = stepHostEvent e { s with hostq := q } := by
  obtain ⟨hp, hu⟩ := hs
  simp only [step, stepOf, hu, hp, stepIdle, hq]

/-- Settles O5: a reserved number does not decode, a read-only register ignores its write, and `CMD` reads 0. -/
theorem reservedRegisterNumbers : Obligations.ReservedRegisterNumbers := by
  refine ⟨fun s b n p q hs hq hn => ?_, fun s n v hs hn => ?_, fun s hs => exec_crread .cmd hs⟩
  · rw [step_hostEvent hs hq]
    simp only [stepHostEvent, decodeAccess_reserved _ b p hn, refusalOf]
  · rcases hn with rfl | rfl | rfl | rfl <;> exact exec_crwrite v hs (by decide)

/-- Settles O7: a micro-operation in hand is done, and the datapath executes the primitive of its word as `exec` does. -/
theorem stepRunsPrimitive : Obligations.StepRunsPrimitive := by
  intro s w r ops i hu hd
  rw [step_inHand hu, ← datapath_eq_exec i _ (decodePrim_prim hd).1]
  simp only [doMicroOp, hd]

end Sys2Proof.Proofs

/-! PROOF. The field, the tables and the transforms of 40_primitives, and what the primitives do. The column transforms are
products of circulant matrices over the field, so that they undo each other is the associativity of the field product. -/

namespace Sys2Proof.Proofs

open Sys2Proof.Machine Sys2Proof.Laws

/-! ### The field product -/

/-- The term of bit `i` of `b` in the product `a * b` (40_primitives R121). -/
def mulTerm (a b : Byte) (i : Nat) : Byte := if b.getLsbD i then xtimes i a else 0

theorem gmul_eq_terms (a b : Byte) :
    gmul a b = mulTerm a b 0 ^^^ mulTerm a b 1 ^^^ mulTerm a b 2 ^^^ mulTerm a b 3 ^^^ mulTerm a b 4 ^^^ mulTerm a b 5 ^^^
      mulTerm a b 6 ^^^ mulTerm a b 7 := by
  rw [← BitVec.zero_xor (x := mulTerm a b 0)]
  rfl

theorem xtime_xor (a b : Byte) : xtime (a ^^^ b) = xtime a ^^^ xtime b := by
  have hbit : (if (a ^^^ b).getLsbD 7 then 0x1B#8 else 0x00#8) =
      (if a.getLsbD 7 then 0x1B#8 else 0x00#8) ^^^ (if b.getLsbD 7 then 0x1B#8 else 0x00#8) := by
    rw [BitVec.getLsbD_xor]
    cases a.getLsbD 7 <;> cases b.getLsbD 7 <;> rfl
  rw [xtime, hbit, BitVec.shiftLeft_xor_distrib, xtime, xtime]
  ac_rfl

theorem xtimes_xor (n : Nat) (a b : Byte) : xtimes n (a ^^^ b) = xtimes n a ^^^ xtimes n b := by
  induction n with
  | zero => rfl
  | succ n ih => simp only [xtimes, ih, xtime_xor]

theorem gmul_xor_left (a b c : Byte) : gmul (a ^^^ b) c = gmul a c ^^^ gmul b c := by
  have hterm (i : Nat) : mulTerm (a ^^^ b) c i = mulTerm a c i ^^^ mulTerm b c i := by
    unfold mulTerm
    split
    · exact xtimes_xor i a b
    · rfl
  simp only [gmul_eq_terms, hterm]
  ac_rfl

theorem gmul_xor_right (a b c : Byte) : gmul a (b ^^^ c) = gmul a b ^^^ gmul a c := by
  have hterm (i : Nat) : mulTerm a (b ^^^ c) i = mulTerm a b i ^^^ mulTerm a c i := by
    unfold mulTerm
    rw [BitVec.getLsbD_xor]
    cases b.getLsbD i <;> cases c.getLsbD i <;> simp
  simp only [gmul_eq_terms, hterm]
  ac_rfl

theorem gmul_zero (a : Byte) : gmul a 0 = 0 := by simp [gmul_eq_terms, mulTerm]

theorem gmul_one (a : Byte) : gmul a 1 = a := by simp [gmul_eq_terms, mulTerm, xtimes]

/-- `x^8` is `x^4 + x^3 + x + 1` in the field (40_primitives R120). -/
theorem gmul_reduced (a : Byte) : gmul a 0x1B = xtimes 8 a := by
  revert a
  decide +kernel

/-- A shift moves each term of a product up by one power of `x`; the term of bit 7 is lost. -/
theorem gmul_shiftLeft (a b : Byte) : gmul a (b <<< 1) ^^^ xtime (mulTerm a b 7) = xtime (gmul a b) := by
  have hlow : mulTerm a (b <<< 1) 0 = 0#8 := by simp [mulTerm]
  have hup (i : Nat) (hi : i < 7) : mulTerm a (b <<< 1) (i + 1) = xtime (mulTerm a b i) := by
    have hbit : (b <<< 1).getLsbD (i + 1) = b.getLsbD i := by
      rw [BitVec.getLsbD_shiftLeft]
      simp [show i + 1 < 8 by omega]
    simp only [mulTerm, hbit]
    split <;> rfl
  simp only [gmul_eq_terms, xtime_xor, hlow, hup 0, hup 1, hup 2, hup 3, hup 4, hup 5, hup 6, Nat.reduceLT,
    BitVec.zero_xor]

theorem gmul_xtime (a b : Byte) : gmul a (xtime b) = xtime (gmul a b) := by
  have hcarry : gmul a (if b.getLsbD 7 then 0x1B#8 else 0x00#8) = xtime (mulTerm a b 7) := by
    unfold mulTerm
    split
    · exact gmul_reduced a
    · exact gmul_zero a
  rw [xtime, gmul_xor_right, hcarry, gmul_shiftLeft]

theorem gmul_xtimes (n : Nat) (a b : Byte) : gmul a (xtimes n b) = xtimes n (gmul a b) := by
  induction n with
  | zero => rfl
  | succ n ih => simp only [xtimes, gmul_xtime, ih]

theorem gmul_assoc (a b c : Byte) : gmul (gmul a b) c = gmul a (gmul b c) := by
  have hterm (i : Nat) : mulTerm (gmul a b) c i = gmul a (mulTerm b c i) := by
    unfold mulTerm
    split
    · exact (gmul_xtimes i a b).symm
    · exact (gmul_zero a).symm
  simp only [gmul_eq_terms _ c, hterm, gmul_xor_right]

theorem xtimes_xtime (n : Nat) (a : Byte) : xtimes n (xtime a) = xtime (xtimes n a) := by
  induction n with
  | zero => rfl
  | succ n ih => exact congrArg xtime ih

theorem gmul_xtime_left (a b : Byte) : gmul (xtime a) b = xtime (gmul a b) := by
  have hterm (i : Nat) : mulTerm (xtime a) b i = xtime (mulTerm a b i) := by
    unfold mulTerm
    split
    · exact xtimes_xtime i a
    · rfl
  simp only [gmul_eq_terms, hterm, xtime_xor]

theorem gmul_xtimes_left (n : Nat) (a b : Byte) : gmul (xtimes n a) b = xtimes n (gmul a b) := by
  induction n with
  | zero => rfl
  | succ n ih => simp only [xtimes, gmul_xtime_left, ih]

theorem one_gmul (a : Byte) : gmul 1 a = a := by
  revert a
  decide +kernel

/-- A byte is the sum of its powers of `x` (40_primitives R120). -/
theorem byte_eq_powers (a : Byte) :
    a = mulTerm 1 a 0 ^^^ mulTerm 1 a 1 ^^^ mulTerm 1 a 2 ^^^ mulTerm 1 a 3 ^^^ mulTerm 1 a 4 ^^^ mulTerm 1 a 5 ^^^
      mulTerm 1 a 6 ^^^ mulTerm 1 a 7 := by
  rw [← gmul_eq_terms, one_gmul]

theorem zero_gmul (a : Byte) : gmul 0 a = 0 := by
  simpa using gmul_xor_left 0 0 a

theorem gmul_comm (a b : Byte) : gmul a b = gmul b a := by
  have hterm (i : Nat) : gmul (mulTerm 1 b i) a = mulTerm a b i := by
    unfold mulTerm
    split
    · rw [gmul_xtimes_left, one_gmul]
    · exact zero_gmul a
  conv => rhs; rw [byte_eq_powers b]
  simp only [gmul_xor_left, hterm, gmul_eq_terms a b]

/-! ### Inverses -/

/-- Squaring is additive: the two mixed products cancel. -/
theorem gmul_self_xor (a b : Byte) : gmul (a ^^^ b) (a ^^^ b) = gmul a a ^^^ gmul b b := by
  rw [gmul_xor_left, gmul_xor_right, gmul_xor_right, gmul_comm b a, BitVec.xor_assoc, ← BitVec.xor_assoc (gmul a b),
    BitVec.xor_self, BitVec.zero_xor]

theorem gsquares_xor (n : Nat) (a b : Byte) : gsquares n (a ^^^ b) = gsquares n a ^^^ gsquares n b := by
  induction n with
  | zero => rfl
  | succ n ih => simp only [gsquares, ih, gmul_self_xor]

/-- `a^256 = a`: the map is additive and fixes the powers of `x`. -/
theorem gsquares_eight (a : Byte) : gsquares 8 a = a := by
  have hpower : ∀ i, i < 8 → gsquares 8 (xtimes i 1) = xtimes i 1 := by decide +kernel
  have hterm (i : Nat) (hi : i < 8) : gsquares 8 (mulTerm 1 a i) = mulTerm 1 a i := by
    unfold mulTerm
    split
    · exact hpower i hi
    · decide +kernel
  have hsum := congrArg (gsquares 8) (byte_eq_powers a)
  simp only [gsquares_xor, hterm, Nat.reduceLT] at hsum
  exact hsum.trans (byte_eq_powers a).symm

/-- `a^2 * a^254 = a^256`: each square in the product meets its like. -/
theorem gmul_sq_gfInv (a : Byte) : gmul (gmul a a) (gfInv a) = gsquares 8 a := by
  simp only [gfInv, List.foldl_cons, List.foldl_nil, ← gmul_assoc]
  rfl

/-- The inverse of the affine map of 40_primitives R124. -/
def affineInv (s : Byte) : Byte := s.rotateLeft 1 ^^^ s.rotateLeft 3 ^^^ s.rotateLeft 6 ^^^ 0x05#8

/-- The byte whose affine image stands in the table `SBOX` is an inverse (40_primitives R123, R124). -/
theorem affineInv_sbox_gmul (a : Byte) (h : a ≠ 0) : gmul (affineInv (sbox a)) a = 1 := by
  revert a
  decide +kernel

theorem gmul_gfInv (a : Byte) (h : a ≠ 0) : gmul a (gfInv a) = 1 := by
  have hinv := affineInv_sbox_gmul a h
  calc
    gmul a (gfInv a) = gmul (affineInv (sbox a)) (gmul (gmul a a) (gfInv a)) := by
      rw [gmul_assoc a, ← gmul_assoc _ a, hinv, one_gmul]
    _ = 1 := by rw [gmul_sq_gfInv, gsquares_eight, hinv]

theorem gfInv_eq_affineInv_sbox (a : Byte) : gfInv a = affineInv (sbox a) := by
  by_cases h : a = 0
  · subst h
    decide +kernel
  · calc
      gfInv a = gmul (affineInv (sbox a)) (gmul a (gfInv a)) := by
        rw [← gmul_assoc, affineInv_sbox_gmul a h, one_gmul]
      _ = affineInv (sbox a) := by rw [gmul_gfInv a h, gmul_one]

/-- Settles O11: the product is additive term by term, and `a^254` inverts `a` because `a^256 = a`. -/
theorem fieldInverse : Obligations.FieldInverse :=
  ⟨gmul_gfInv, by decide +kernel, by decide +kernel, gmul_one, gmul_xor_left, by decide +kernel, by decide +kernel⟩

/-- Settles O10: the listed constants against `xtime`. -/
theorem roundConstantsArePowers : Obligations.RoundConstantsArePowers := by
  refine ⟨rfl, fun i h1 h10 => ?_, rfl⟩
  interval_cases i <;> rfl

/-! ### The tables -/

theorem affine_affineInv (s : Byte) :
    let b := affineInv s
    b ^^^ b.rotateLeft 1 ^^^ b.rotateLeft 2 ^^^ b.rotateLeft 3 ^^^ b.rotateLeft 4 ^^^ 0x63#8 = s := by
  revert s
  decide +kernel

theorem sbox_eq_formula (a : Byte) : sbox a = sboxByFormula a := by
  rw [sboxByFormula, gfInv_eq_affineInv_sbox]
  exact (affine_affineInv (sbox a)).symm

theorem invSbox_sbox (a : Byte) : invSbox (sbox a) = a := by
  revert a
  decide +kernel

theorem sbox_invSbox (a : Byte) : sbox (invSbox a) = a := by
  revert a
  decide +kernel

/-- Settles O12: the table holds the affine images of inverses, and the two tables of 256 entries undo each other. -/
theorem substitutionTables : Obligations.SubstitutionTables := ⟨sbox_eq_formula, invSbox_sbox, sbox_invSbox⟩

/-! ### The transforms -/

theorem byteOf_subBytes (V : Block) (i : Nat) (h : i < 16) : byteOf (subBytes V) i = sbox (byteOf V i) :=
  byteOf_ofBytes _ i h

theorem byteOf_invSubBytes (V : Block) (i : Nat) (h : i < 16) : byteOf (invSubBytes V) i = invSbox (byteOf V i) :=
  byteOf_ofBytes _ i h

theorem byteOf_shiftRows (V : Block) (i : Nat) (h : i < 16) : byteOf (shiftRows V) i = byteOf V (shiftRowsIndex i) :=
  byteOf_ofBytes _ i h

theorem byteOf_invShiftRows (V : Block) (i : Nat) (h : i < 16) :
    byteOf (invShiftRows V) i = byteOf V (invShiftRowsIndex i) :=
  byteOf_ofBytes _ i h

theorem shiftRowsIndex_lt (i : Nat) : shiftRowsIndex i < 16 := by unfold shiftRowsIndex; omega

theorem invShiftRowsIndex_lt (i : Nat) : invShiftRowsIndex i < 16 := by unfold invShiftRowsIndex; omega

theorem shiftRowsIndex_invShiftRowsIndex {i : Nat} (h : i < 16) : shiftRowsIndex (invShiftRowsIndex i) = i := by
  unfold shiftRowsIndex invShiftRowsIndex
  omega

theorem invShiftRowsIndex_shiftRowsIndex {i : Nat} (h : i < 16) : invShiftRowsIndex (shiftRowsIndex i) = i := by
  unfold shiftRowsIndex invShiftRowsIndex
  omega

/-- Row `r`, column `c` of the state matrix (40_primitives R127). -/
theorem shiftRowsIndex_matrix {r : Nat} (c : Nat) (h : r < 4) : shiftRowsIndex (r + 4 * c) = r + 4 * ((c + r) % 4) := by
  unfold shiftRowsIndex
  omega

/-- A byte of column `c` of a column transform, row by row from its own on (40_primitives R128, R129). -/
theorem byteOf_mixByte (m0 m1 m2 m3 : Byte) (V : Block) (c j : Nat) (hc : c < 4) :
    byteOf (ofBytes (mixByte m0 m1 m2 m3 V)) (4 * c + j % 4) =
      gmul (byteOf V (4 * c + j % 4)) m0 ^^^ gmul (byteOf V (4 * c + (j + 1) % 4)) m1 ^^^
        gmul (byteOf V (4 * c + (j + 2) % 4)) m2 ^^^ gmul (byteOf V (4 * c + (j + 3) % 4)) m3 := by
  have hcol : (4 * c + j % 4) / 4 = c := by omega
  have hown : (4 * c + j % 4) % 4 = j % 4 := by omega
  have hrow (k : Nat) : (4 * c + j % 4 + k) % 4 = (j + k) % 4 := by omega
  rw [byteOf_ofBytes _ _ (by omega)]
  simp only [mixByte, hcol, hown, hrow]

theorem mixByte_xor (m0 m1 m2 m3 : Byte) (A B : Block) (i : Nat) :
    mixByte m0 m1 m2 m3 (A ^^^ B) i = mixByte m0 m1 m2 m3 A i ^^^ mixByte m0 m1 m2 m3 B i := by
  simp only [mixByte, byteOf_xor, gmul_xor_left]
  ac_rfl

/-- The circulant matrices with the first rows `m` and `n` are inverse: the first row of their product is `1 0 0 0`. -/
def CirculantInverse (m0 m1 m2 m3 n0 n1 n2 n3 : Byte) : Prop :=
  gmul m0 n0 ^^^ gmul m3 n1 ^^^ gmul m2 n2 ^^^ gmul m1 n3 = 1 ∧
  gmul m1 n0 ^^^ gmul m0 n1 ^^^ gmul m3 n2 ^^^ gmul m2 n3 = 0 ∧
  gmul m2 n0 ^^^ gmul m1 n1 ^^^ gmul m0 n2 ^^^ gmul m3 n3 = 0 ∧
  gmul m3 n0 ^^^ gmul m2 n1 ^^^ gmul m1 n2 ^^^ gmul m0 n3 = 0

/-- A column transform undoes the one of the inverse matrix. -/
theorem mixByte_inverse {m0 m1 m2 m3 n0 n1 n2 n3 : Byte} (h : CirculantInverse m0 m1 m2 m3 n0 n1 n2 n3) (V : Block) :
    ofBytes (mixByte n0 n1 n2 n3 (ofBytes (mixByte m0 m1 m2 m3 V))) = V := by
  refine block_ext fun i hi => ?_
  obtain ⟨c, j, hc, rfl⟩ : ∃ c j, c < 4 ∧ i = 4 * c + j % 4 := ⟨i / 4, i, by omega, by omega⟩
  have h5 : (j + 5) % 4 = (j + 1) % 4 := by omega
  have h6 : (j + 6) % 4 = (j + 2) % 4 := by omega
  obtain ⟨h0, h1, h2, h3⟩ := h
  simp only [byteOf_mixByte _ _ _ _ _ c _ hc, Nat.add_assoc, Nat.reduceAdd, Nat.add_mod_right, h5, h6]
  generalize byteOf V (4 * c + j % 4) = a0, byteOf V (4 * c + (j + 1) % 4) = a1, byteOf V (4 * c + (j + 2) % 4) = a2,
    byteOf V (4 * c + (j + 3) % 4) = a3
  calc
    _ = gmul a0 (gmul m0 n0 ^^^ gmul m3 n1 ^^^ gmul m2 n2 ^^^ gmul m1 n3) ^^^
        gmul a1 (gmul m1 n0 ^^^ gmul m0 n1 ^^^ gmul m3 n2 ^^^ gmul m2 n3) ^^^
        gmul a2 (gmul m2 n0 ^^^ gmul m1 n1 ^^^ gmul m0 n2 ^^^ gmul m3 n3) ^^^
        gmul a3 (gmul m3 n0 ^^^ gmul m2 n1 ^^^ gmul m1 n2 ^^^ gmul m0 n3) := by
      simp only [gmul_xor_left, gmul_xor_right, gmul_assoc]
      ac_rfl
    _ = a0 := by rw [h0, h1, h2, h3, gmul_one, gmul_zero, gmul_zero, gmul_zero]; simp

theorem invMixColumns_mixColumns (V : Block) : invMixColumns (mixColumns V) = V :=
  mixByte_inverse (by unfold CirculantInverse; decide +kernel) V

theorem mixColumns_invMixColumns (V : Block) : mixColumns (invMixColumns V) = V :=
  mixByte_inverse (by unfold CirculantInverse; decide +kernel) V

theorem mixColumns_xor (A B : Block) : mixColumns (A ^^^ B) = mixColumns A ^^^ mixColumns B :=
  block_ext fun i hi => by simp only [mixColumns, byteOf_xor, byteOf_ofBytes _ i hi, mixByte_xor]

theorem invMixColumns_xor (A B : Block) : invMixColumns (A ^^^ B) = invMixColumns A ^^^ invMixColumns B :=
  block_ext fun i hi => by simp only [invMixColumns, byteOf_xor, byteOf_ofBytes _ i hi, mixByte_xor]

theorem invSubBytes_subBytes (V : Block) : invSubBytes (subBytes V) = V :=
  block_ext fun i hi => by rw [byteOf_invSubBytes _ i hi, byteOf_subBytes _ i hi, invSbox_sbox]

theorem subBytes_invSubBytes (V : Block) : subBytes (invSubBytes V) = V :=
  block_ext fun i hi => by rw [byteOf_subBytes _ i hi, byteOf_invSubBytes _ i hi, sbox_invSbox]

theorem invShiftRows_shiftRows (V : Block) : invShiftRows (shiftRows V) = V :=
  block_ext fun i hi => by
    rw [byteOf_invShiftRows _ i hi, byteOf_shiftRows _ _ (invShiftRowsIndex_lt i), shiftRowsIndex_invShiftRowsIndex hi]

theorem shiftRows_invShiftRows (V : Block) : shiftRows (invShiftRows V) = V :=
  block_ext fun i hi => by
    rw [byteOf_shiftRows _ i hi, byteOf_invShiftRows _ _ (shiftRowsIndex_lt i), invShiftRowsIndex_shiftRowsIndex hi]

/-- One acts on byte values and the other on byte positions (40_primitives R131). -/
theorem subBytes_shiftRows (V : Block) : subBytes (shiftRows V) = shiftRows (subBytes V) :=
  block_ext fun i hi => by
    rw [byteOf_subBytes _ i hi, byteOf_shiftRows _ i hi, byteOf_shiftRows _ i hi, byteOf_subBytes _ _ (shiftRowsIndex_lt i)]

theorem invSubBytes_invShiftRows (V : Block) : invSubBytes (invShiftRows V) = invShiftRows (invSubBytes V) :=
  block_ext fun i hi => by
    rw [byteOf_invSubBytes _ i hi, byteOf_invShiftRows _ i hi, byteOf_invShiftRows _ i hi,
      byteOf_invSubBytes _ _ (invShiftRowsIndex_lt i)]

theorem bijective_of_inverse {f g : Block → Block} (hgf : ∀ V, g (f V) = V) (hfg : ∀ V, f (g V) = V) :
    Function.Bijective f :=
  Function.bijective_iff_has_inverse.2 ⟨g, hgf, hfg⟩

/-- Settles O14: what acts on values commutes with what moves bytes, and each transform has its inverse on both sides. -/
theorem transformFacts : Obligations.TransformFacts :=
  ⟨fun V => ⟨subBytes_shiftRows V, invSubBytes_invShiftRows V⟩,
    fun A B => ⟨invMixColumns_xor A B, mixColumns_xor A B⟩,
    fun V => ⟨invShiftRows_shiftRows V, invSubBytes_subBytes V, invMixColumns_mixColumns V⟩,
    bijective_of_inverse invSubBytes_subBytes subBytes_invSubBytes,
    bijective_of_inverse subBytes_invSubBytes invSubBytes_subBytes,
    bijective_of_inverse invShiftRows_shiftRows shiftRows_invShiftRows,
    bijective_of_inverse shiftRows_invShiftRows invShiftRows_shiftRows,
    bijective_of_inverse invMixColumns_mixColumns mixColumns_invMixColumns,
    bijective_of_inverse mixColumns_invMixColumns invMixColumns_mixColumns⟩

/-! ### Dwords -/

theorem dwordByte_xor (a b : Word) (i : Nat) : dwordByte (a ^^^ b) i = dwordByte a i ^^^ dwordByte b i :=
  BitVec.extractLsb'_xor

theorem dwordByte_subWord (w : Word) (i : Nat) (h : i < 4) : dwordByte (subWord w) i = sbox (dwordByte w i) := by
  obtain ⟨h0, h1, h2, h3⟩ := dwordByte_dwordOfBytes (sbox (dwordByte w 0)) (sbox (dwordByte w 1)) (sbox (dwordByte w 2))
    (sbox (dwordByte w 3))
  interval_cases i <;> assumption

/-- Byte `i` of the rotated dword is byte `i + 1`, byte 3 is byte 0 (40_primitives R130). -/
theorem dwordByte_rotWord (w : Word) (i : Nat) (h : i < 4) : dwordByte (rotWord w) i = dwordByte w ((i + 1) % 4) := by
  apply BitVec.eq_of_getLsbD_eq
  intro k hk
  simp only [dwordByte, rotWord, BitVec.getLsbD_extractLsb', BitVec.getLsbD_or, BitVec.getLsbD_ushiftRight,
    BitVec.getLsbD_shiftLeft, hk]
  rcases Nat.lt_or_eq_of_le (Nat.le_of_lt_succ h) with h3 | rfl
  · have hpos : 8 * ((i + 1) % 4) + k = 8 + (8 * i + k) := by omega
    have hlow : 8 * i + k < 24 := by omega
    simp [hpos, hlow]
  · have hpos : 24 + k < 32 := by omega
    have hout : w.getLsbD (8 + (24 + k)) = false := BitVec.getLsbD_of_ge _ _ (by omega)
    simp [hpos, hout]

theorem rotWord_subWord (w : Word) : rotWord (subWord w) = subWord (rotWord w) :=
  dword_ext fun i hi => by
    rw [dwordByte_rotWord _ i hi, dwordByte_subWord _ _ (Nat.mod_lt _ (by decide)), dwordByte_subWord _ i hi,
      dwordByte_rotWord _ i hi]

theorem dwordByte_setWidth (b : Byte) (i : Nat) : dwordByte (b.setWidth 32) i = if i = 0 then b else 0 := by
  apply BitVec.eq_of_getLsbD_eq
  intro k hk
  split
  · subst i
    simp [dwordByte, hk, Nat.lt_trans hk]
  · have hout : b.getLsbD (8 * i + k) = false := BitVec.getLsbD_of_ge _ _ (by omega)
    simp [dwordByte, hout]

/-- Settles O13: each transform byte by byte, from its definition over the 16 bytes or the 4 bytes of a dword. -/
theorem transformsByteByByte : Obligations.TransformsByteByByte := by
  refine fun V => ⟨fun i hi => ⟨byteOf_subBytes V i hi, byteOf_invSubBytes V i hi⟩, fun r c hr hc => ⟨?_, ?_⟩, ?_,
    fun w => ⟨dwordByte_rotWord w 0 (by decide), dwordByte_rotWord w 1 (by decide), dwordByte_rotWord w 2 (by decide),
      dwordByte_rotWord w 3 (by decide), rotWord_subWord w⟩⟩
  · rw [byteOf_shiftRows _ _ (by omega), shiftRowsIndex_matrix c hr]
  · rw [← shiftRowsIndex_matrix c hr, byteOf_invShiftRows _ _ (shiftRowsIndex_lt _),
      invShiftRowsIndex_shiftRowsIndex (by omega)]
  · intro c hc
    have hmix (j : Nat) := byteOf_mixByte 0x02 0x03 0x01 0x01 V c j hc
    have hinv (j : Nat) := byteOf_mixByte 0x0E 0x0B 0x0D 0x09 V c j hc
    refine ⟨(hmix 0).trans ?_, (hmix 1).trans ?_, (hmix 2).trans ?_, (hmix 3).trans ?_,
      (hinv 0).trans ?_, (hinv 1).trans ?_, (hinv 2).trans ?_, (hinv 3).trans ?_⟩
    all_goals simp only [Nat.reduceMod, Nat.reduceAdd, Nat.add_zero, gmul_one] <;> ac_rfl

/-! ### The data primitives -/

/-- Settles O15: each primitive writes its function of the operands read before. -/
theorem dataPrimitivesComplete : Obligations.DataPrimitivesComplete :=
  fun _ _ _ _ _ _ => ⟨rfl, rfl, rfl, rfl, rfl, rfl, rfl, rfl, rfl⟩

theorem exec_of_dataResult {i : Instr} {s : State} {d : Reg} {v : Block} (h : dataResult s i = some (d, v)) :
    exec i s = .next (s.writeReg d v) := by
  cases i <;> cases h <;> rfl

/-- Settles O16: a data primitive is one register write. -/
theorem dataPrimitivesFrame : Obligations.DataPrimitivesFrame := by
  intro i s t d v hs hv h
  cases (exec_of_dataResult hv).symm.trans h
  exact ⟨readReg_writeReg_same s d v hs.2, fun r hr => readReg_writeReg_other s d r v hr, sameButRegs_writeReg s d v,
    fun a => by rw [writeReg_mem]⟩

theorem dwordOf_shiftLeft_zero (a : Block) : dwordOf (a <<< 32) 0 = 0 := by
  apply BitVec.eq_of_getLsbD_eq
  intro k hk
  simp [dwordOf, hk]

theorem dwordOf_shiftLeft_succ (a : Block) (j : Nat) (h : j < 3) : dwordOf (a <<< 32) (j + 1) = dwordOf a j := by
  apply BitVec.eq_of_getLsbD_eq
  intro k hk
  have hin : 32 * (j + 1) + k < 128 := by omega
  have hup : 32 * (j + 1) + k - 32 = 32 * j + k := by omega
  have hge : ¬ 32 * (j + 1) + k < 32 := by omega
  simp only [dwordOf, BitVec.getLsbD_extractLsb', BitVec.getLsbD_shiftLeft, hk, hin, hup, hge]
  simp

/-- Settles O17: `PXOR` acts bit by bit, `PSLLDQ4` moves each dword up by one, `PSHUFD_FF` writes one dword four times. -/
theorem shufflesByDword : Obligations.ShufflesByDword := by
  refine fun a b => ⟨fun i _ => byteOf_xor a b i, BitVec.xor_self, BitVec.xor_zero, dwordOf_shiftLeft_zero a,
    fun j h1 h4 => ?_, fun j hj => dwordOf_ofDwords _ j hj⟩
  obtain ⟨k, rfl⟩ := Nat.exists_eq_add_of_le' h1
  exact dwordOf_shiftLeft_succ a k (by omega)

/-- The upper dwords of an assist are the rotated ones (40_primitives R143). -/
theorem dwordOf_assistOf (a : Block) (imm8 : Byte) :
    dwordOf (assistOf a imm8) 0 = subWord (dwordOf a 1) ∧
    dwordOf (assistOf a imm8) 1 = rotWord (subWord (dwordOf a 1)) ^^^ imm8.setWidth 32 ∧
    dwordOf (assistOf a imm8) 2 = subWord (dwordOf a 3) ∧
    dwordOf (assistOf a imm8) 3 = rotWord (subWord (dwordOf a 3)) ^^^ imm8.setWidth 32 := by
  refine ⟨?_, ?_, ?_, ?_⟩ <;> rw [assistOf, dwordOf_ofDwords _ _ (by decide)] <;> rfl

/-- Byte `i` of the last dword of an assist: the substituted byte one up, and the constant in byte 0. -/
theorem byteOf_assistOf (a : Block) (imm8 : Byte) (i : Nat) (h : i < 4) :
    byteOf (assistOf a imm8) (12 + i) = sbox (byteOf a (12 + (i + 1) % 4)) ^^^ if i = 0 then imm8 else 0 := by
  have hnext : (i + 1) % 4 < 4 := Nat.mod_lt _ (by decide)
  obtain ⟨-, -, -, hlast⟩ := dwordOf_assistOf a imm8
  rw [← dwordByte_dwordOf _ 3 i h, hlast, dwordByte_xor, dwordByte_rotWord _ i h, dwordByte_subWord _ _ hnext,
    dwordByte_dwordOf _ 3 _ hnext, dwordByte_setWidth]

/-- Settles O18: the four dwords, and the bytes of the last one. -/
theorem keyGenAssistDwords : Obligations.KeyGenAssistDwords := by
  intro a imm8
  obtain ⟨h0, h1, h2, h3⟩ := dwordOf_assistOf a imm8
  have hbyte := byteOf_assistOf a imm8
  exact ⟨h0, h1, h2, h3, by simpa using hbyte 0 (by decide), by simpa using hbyte 1 (by decide),
    by simpa using hbyte 2 (by decide), by simpa using hbyte 3 (by decide)⟩

/-! ### The block accesses -/

theorem exec_ldblk_admitted {s : State} {addr : Nat} (j : Nat) (h : admitted s.platform addr = true) :
    exec (.ldblk j addr) s = .next (s.writeS j (memRead s.mem addr)) := if_pos h

theorem exec_ldblk_refused {s : State} {addr : Nat} (j : Nat) (h : admitted s.platform addr = false) :
    exec (.ldblk j addr) s = .next (s.faultWorker j) := if_neg (by simp [h])

theorem exec_stblk_admitted {s : State} {addr : Nat} (j : Nat) (h : admitted s.platform addr = true) :
    exec (.stblk addr j) s = .next { s with mem := memWrite s.mem addr (s.readS j) } := if_pos h

theorem exec_stblk_refused {s : State} {addr : Nat} (j : Nat) (h : admitted s.platform addr = false) :
    exec (.stblk addr j) s = .next (s.faultWorker j) := if_neg (by simp [h])

/-- A worker fault puts worker `j` into `FAULT` and changes nothing else (43_parallel R218). -/
theorem faultWorker_frame (s : State) (j : Nat) :
    (∀ w, s.workers[j]? = some w → (s.faultWorker j).workers[j]? = some { w with wstat := .fault }) ∧
      (∀ j', j' ≠ j → (s.faultWorker j).workers[j']? = s.workers[j']?) ∧
      { s.faultWorker j with workers := s.workers } = s := by
  refine ⟨fun w hw => ?_, fun j' hj => ?_, rfl⟩
  · rw [faultWorker_workers, List.getElem?_modify_eq, hw]
    rfl
  · rw [faultWorker_workers, List.getElem?_modify_ne _ _ (Ne.symm hj)]

/-- Settles O20: an admitted load is one write of `S[j]`, a refused one a worker fault. -/
theorem loadBlock : Obligations.LoadBlock := by
  refine fun s j addr hs => ⟨fun ha => ?_, fun ha => ⟨_, exec_ldblk_refused j ha, faultWorker_frame s j⟩⟩
  refine ⟨_, exec_ldblk_admitted j ha, fun i hi => ?_, fun r hr => readReg_writeReg_other s (.s j) r _ hr, rfl, fun a => rfl⟩
  rw [readS_writeS_same s j _ hs.2, byteOf_memRead _ _ _ hi]

/-- Settles O21: an admitted store is one block write, a refused one a worker fault. -/
theorem storeBlock : Obligations.StoreBlock := by
  refine fun s j addr hs => ⟨fun ha => ?_, fun ha => ⟨_, exec_stblk_refused j ha, faultWorker_frame s j⟩⟩
  refine ⟨_, exec_stblk_admitted j ha, fun i hi => ?_, fun a h => ?_, rfl⟩
  · rw [memByte_write_inside addr i _ hs.1 hi]
  · rw [memByte_write_outside _ _ _ _ h]

end Sys2Proof.Proofs

/-! PROOF. The schedules of 41_keyschedule: three shift-and-xor folds leave the running exclusive or of a key's dwords, because
`(1 + x)^3 = 1 + x + x^2 + x^3` with coefficients modulo 2, `x` being the move up by one dword. -/

namespace Sys2Proof.Proofs

open Sys2Proof.Machine Sys2Proof.Laws

/-! ### The encryption schedule -/

/-- One shift-and-xor fold (41_keyschedule R173, steps 3 to 5). -/
def shiftFold (k : Block) : Block := pxorOf k (pslldq4Of k)

theorem ksStep_eq_shiftFold (k : Block) (rc : Byte) :
    ksStep k rc = shiftFold (shiftFold (shiftFold k)) ^^^ pshufdFfOf (assistOf k rc) := rfl

theorem dwordOf_shiftFold_zero (k : Block) : dwordOf (shiftFold k) 0 = dwordOf k 0 := by
  rw [shiftFold, pxorOf, dwordOf_xor, pslldq4Of, dwordOf_shiftLeft_zero]
  exact BitVec.xor_zero

theorem dwordOf_shiftFold_succ (k : Block) (j : Nat) (h : j < 3) :
    dwordOf (shiftFold k) (j + 1) = dwordOf k (j + 1) ^^^ dwordOf k j := by
  rw [shiftFold, pxorOf, dwordOf_xor, pslldq4Of, dwordOf_shiftLeft_succ k j h]

/-- `(1 + x)^2 = 1 + x^2`: two folds leave the two low dwords as they were. -/
theorem dwordOf_twoFolds_low (k : Block) (j : Nat) (h : j < 2) : dwordOf (shiftFold (shiftFold k)) j = dwordOf k j := by
  match j with
  | 0 => rw [dwordOf_shiftFold_zero, dwordOf_shiftFold_zero]
  | 1 =>
    rw [dwordOf_shiftFold_succ _ 0 (by decide), dwordOf_shiftFold_succ k 0 (by decide), dwordOf_shiftFold_zero,
      BitVec.xor_assoc, BitVec.xor_self]
    exact BitVec.xor_zero

/-- `(1 + x)^2 = 1 + x^2`: two folds add the dword two below. -/
theorem dwordOf_twoFolds_add_two (k : Block) (j : Nat) (h : j < 2) :
    dwordOf (shiftFold (shiftFold k)) (j + 2) = dwordOf k (j + 2) ^^^ dwordOf k j := by
  rw [dwordOf_shiftFold_succ _ (j + 1) (by omega), dwordOf_shiftFold_succ k (j + 1) (by omega),
    dwordOf_shiftFold_succ k j (by omega), BitVec.xor_assoc, ← BitVec.xor_assoc (dwordOf k (j + 1)), BitVec.xor_self,
    BitVec.zero_xor]

/-- Three folds leave the running exclusive or: each dword is the key's dword and the result's dword below it. -/
theorem dwordOf_threeFolds_succ (k : Block) (j : Nat) (h : j < 3) :
    dwordOf (shiftFold (shiftFold (shiftFold k))) (j + 1) =
      dwordOf k (j + 1) ^^^ dwordOf (shiftFold (shiftFold (shiftFold k))) j := by
  rw [dwordOf_shiftFold_succ _ j h]
  match j with
  | 0 => rw [dwordOf_twoFolds_low k 1 (by decide), dwordOf_shiftFold_zero (shiftFold (shiftFold k))]
  | j + 1 =>
    rw [dwordOf_twoFolds_add_two k j (by omega), dwordOf_shiftFold_succ (shiftFold (shiftFold k)) j (by omega),
      dwordOf_twoFolds_low k j (by omega)]
    ac_rfl

theorem dwordOf_ksStep_zero (k : Block) (rc : Byte) :
    dwordOf (ksStep k rc) 0 = dwordOf k 0 ^^^ dwordOf (assistOf k rc) 3 := by
  rw [ksStep_eq_shiftFold, dwordOf_xor, pshufdFfOf, dwordOf_ofDwords _ 0 (by decide)]
  simp only [dwordOf_shiftFold_zero]

/-- A step's dword above the first is the key's dword and the step's dword below it: the assisted dword comes with it. -/
theorem dwordOf_ksStep_succ (k : Block) (rc : Byte) (j : Nat) (h : j < 3) :
    dwordOf (ksStep k rc) (j + 1) = dwordOf k (j + 1) ^^^ dwordOf (ksStep k rc) j := by
  rw [ksStep_eq_shiftFold, dwordOf_xor, dwordOf_xor, pshufdFfOf, dwordOf_ofDwords _ _ (by omega),
    dwordOf_ofDwords _ _ (by omega), dwordOf_threeFolds_succ k j h, BitVec.xor_assoc]

/-- Settles O25: the recurrence of the step's dwords, unrolled from dword 0. -/
theorem expansionStepByDword : Obligations.ExpansionStepByDword := by
  intro k rc g
  obtain ⟨-, -, -, hg⟩ := dwordOf_assistOf k rc
  have h0 : dwordOf (ksStep k rc) 0 = dwordOf k 0 ^^^ g := dwordOf_ksStep_zero k rc
  have h1 := dwordOf_ksStep_succ k rc 0 (by decide)
  have h2 := dwordOf_ksStep_succ k rc 1 (by decide)
  have h3 := dwordOf_ksStep_succ k rc 2 (by decide)
  refine ⟨hg, h0, ?_, ?_, ?_⟩
  · rw [h1, h0]; ac_rfl
  · rw [h2, h1, h0]; ac_rfl
  · rw [h3, h2, h1, h0]; ac_rfl

/-- `w[n]`: dword `n` of the encryption schedule written as 44 dwords (41_keyschedule R175). -/
def scheduleWord (key : Block) (n : Nat) : Word := dwordOf (roundKey (expandEnc key) (n / 4)) (n % 4)

theorem scheduleWord_eq (key : Block) (i j : Nat) (hi : i < 11) (hj : j < 4) :
    scheduleWord key (4 * i + j) = dwordOf (expandKey key i) j := by
  have hdiv : (4 * i + j) / 4 = i := by omega
  have hmod : (4 * i + j) % 4 = j := by omega
  rw [scheduleWord, hdiv, hmod, roundKey_expandEnc key i hi]

/-- The first dword of a round key (41_keyschedule R175, `n mod 4 = 0`). -/
theorem scheduleWord_first (key : Block) (i : Nat) (hi : i < 10) :
    scheduleWord key (4 * (i + 1)) =
      scheduleWord key (4 * i) ^^^ rotWord (subWord (scheduleWord key (4 * i + 3))) ^^^ (rcon (i + 1)).setWidth 32 := by
  obtain ⟨-, -, -, hg⟩ := dwordOf_assistOf (expandKey key i) (rcon (i + 1))
  have hnew := scheduleWord_eq key (i + 1) 0 (by omega) (by decide)
  have hold := scheduleWord_eq key i 0 (by omega) (by decide)
  rw [Nat.add_zero] at hnew hold
  rw [hnew, hold, scheduleWord_eq key i 3 (by omega) (by decide), expandKey, dwordOf_ksStep_zero, hg, BitVec.xor_assoc]

/-- The other dwords of a round key (41_keyschedule R175, `n mod 4 ≠ 0`). -/
theorem scheduleWord_next (key : Block) (i j : Nat) (hi : i < 10) (hj : j < 3) :
    scheduleWord key (4 * (i + 1) + (j + 1)) =
      scheduleWord key (4 * i + (j + 1)) ^^^ scheduleWord key (4 * (i + 1) + j) := by
  rw [scheduleWord_eq key (i + 1) (j + 1) (by omega) (by omega), scheduleWord_eq key i (j + 1) (by omega) (by omega),
    scheduleWord_eq key (i + 1) j (by omega) (by omega), expandKey, dwordOf_ksStep_succ _ _ j hj]

/-- Settles O26: `n` is `4 * (i + 1) + j`, so `w[n]` is dword `j` of the step from round key `i`. -/
theorem scheduleWordForm : Obligations.ScheduleWordForm := by
  refine fun key => ⟨fun n hn => ?_, fun n h4 h44 h0 => ?_, fun n h4 h44 hne => ?_⟩
  · have hword := scheduleWord_eq key 0 n (by decide) hn
    rwa [Nat.mul_zero, Nat.zero_add] at hword
  · obtain ⟨i, rfl⟩ : ∃ i, n = 4 * (i + 1) := ⟨n / 4 - 1, by omega⟩
    have hdiv : 4 * (i + 1) / 4 = i + 1 := by omega
    rw [hdiv]
    exact scheduleWord_first key i (by omega)
  · obtain ⟨i, j, hj, rfl⟩ : ∃ i j, j < 3 ∧ n = 4 * (i + 1) + (j + 1) :=
      ⟨n / 4 - 1, n % 4 - 1, by omega, by omega⟩
    have hback : 4 * (i + 1) + (j + 1) - 4 = 4 * i + (j + 1) := by omega
    rw [hback]
    exact scheduleWord_next key i j (by omega) hj

/-! ### The decryption schedule -/

/-- Settles O27: the round keys of `expand_dec`, at 0, at 10 and between. -/
theorem decryptionSchedule : Obligations.DecryptionSchedule := by
  refine fun E => ⟨?_, ?_, fun i h1 h9 => ?_⟩
  · rw [roundKey_expandDec E 0 (by decide), if_pos (.inl rfl)]
  · rw [roundKey_expandDec E 10 (by decide), if_pos (.inr rfl)]
  · rw [roundKey_expandDec E i (by omega), if_neg (by omega)]

end Sys2Proof.Proofs

/-! PROOF. The block transforms of 42_blockcipher: every round is a bijection, and the rounds of the decryption undo those of the
encryption from the last to the first, because the decryption's round keys have passed the inverse mix (R197). -/

namespace Sys2Proof.Proofs

open Sys2Proof.Machine Sys2Proof.Laws

/-! ### Rounds are bijections -/

theorem xor_xor_self (A k : Block) : A ^^^ k ^^^ k = A := by rw [BitVec.xor_assoc, BitVec.xor_self, BitVec.xor_zero]

theorem bijective_xor (k : Block) : Function.Bijective (fun x : Block => x ^^^ k) :=
  bijective_of_inverse (fun x => xor_xor_self x k) (fun x => xor_xor_self x k)

theorem bijective_aesencOf (k : Block) : Function.Bijective (fun x => aesencOf x k) := by
  obtain ⟨-, -, -, hsub, -, hshift, -, hmix, -⟩ := transformFacts
  simpa only [aesencOf, Function.comp_def] using (bijective_xor k).comp (hmix.comp (hsub.comp hshift))

theorem bijective_aesenclastOf (k : Block) : Function.Bijective (fun x => aesenclastOf x k) := by
  obtain ⟨-, -, -, hsub, -, hshift, -⟩ := transformFacts
  simpa only [aesenclastOf, Function.comp_def] using (bijective_xor k).comp (hsub.comp hshift)

theorem bijective_aesdecOf (k : Block) : Function.Bijective (fun x => aesdecOf x k) := by
  obtain ⟨-, -, -, -, hsub, -, hshift, -, hmix⟩ := transformFacts
  simpa only [aesdecOf, Function.comp_def] using (bijective_xor k).comp (hmix.comp (hsub.comp hshift))

theorem bijective_aesdeclastOf (k : Block) : Function.Bijective (fun x => aesdeclastOf x k) := by
  obtain ⟨-, -, -, -, hsub, -, hshift, -⟩ := transformFacts
  simpa only [aesdeclastOf, Function.comp_def] using (bijective_xor k).comp (hsub.comp hshift)

theorem bijective_foldl {f : Block → Nat → Block} (h : ∀ i, Function.Bijective (fun x => f x i)) (l : List Nat) :
    Function.Bijective (fun x => l.foldl f x) := by
  induction l with
  | nil => exact Function.bijective_id
  | cons i l ih => exact ih.comp (h i)

theorem bijective_encryptBlock (E : Schedule) : Function.Bijective (fun B => encryptBlock B E) := by
  have hrounds := bijective_foldl (fun i => bijective_aesencOf (roundKey E i)) [1, 2, 3, 4, 5, 6, 7, 8, 9]
  simpa only [encryptBlock, Function.comp_def] using
    (bijective_aesenclastOf (roundKey E 10)).comp (hrounds.comp (bijective_xor (roundKey E 0)))

theorem bijective_decryptBlock (D : Schedule) : Function.Bijective (fun B => decryptBlock B D) := by
  have hrounds := bijective_foldl (fun i => bijective_aesdecOf (roundKey D i)) [9, 8, 7, 6, 5, 4, 3, 2, 1]
  simpa only [decryptBlock, Function.comp_def] using
    (bijective_aesdeclastOf (roundKey D 0)).comp (hrounds.comp (bijective_xor (roundKey D 10)))

/-- Settles O34: every round is a bijection, whatever its round key (40_primitives R131). -/
theorem blockTransformsBijective : Obligations.BlockTransformsBijective :=
  fun E D => ⟨bijective_encryptBlock E, bijective_decryptBlock D⟩

/-! ### The round trip -/

theorem invSubBytes_invShiftRows_subBytes_shiftRows (V : Block) :
    invSubBytes (invShiftRows (subBytes (shiftRows V))) = V := by
  rw [subBytes_shiftRows, invShiftRows_shiftRows, invSubBytes_subBytes]

/-- A decryption round takes the state before an encryption round from the state after it, both seen after their shift and
substitution. -/
theorem aesdecOf_subBytes_shiftRows_aesencOf (x k : Block) :
    aesdecOf (subBytes (shiftRows (aesencOf x k))) (invMixColumns k) = subBytes (shiftRows x) := by
  rw [aesdecOf, invSubBytes_invShiftRows_subBytes_shiftRows, aesencOf, invMixColumns_xor, invMixColumns_mixColumns,
    xor_xor_self]

/-- The decryption rounds undo the encryption rounds with the same indices from the last to the first (42_blockcipher R197). -/
theorem foldl_aesdecOf_reverse (E : Schedule) (l : List Nat) (hl : ∀ i ∈ l, 0 < i ∧ i < 10) (x : Block) :
    l.reverse.foldl (fun y i => aesdecOf y (roundKey (expandDec E) i))
        (subBytes (shiftRows (l.foldl (fun x i => aesencOf x (roundKey E i)) x))) =
      subBytes (shiftRows x) := by
  induction l generalizing x with
  | nil => rfl
  | cons i l ih =>
    obtain ⟨h0, h10⟩ := hl i List.mem_cons_self
    have hkey : roundKey (expandDec E) i = invMixColumns (roundKey E i) := by
      rw [roundKey_expandDec E i (by omega), if_neg (by omega)]
    rw [List.foldl_cons, List.reverse_cons, List.foldl_append, ih fun j hj => hl j (List.mem_cons_of_mem i hj)]
    simp only [List.foldl_cons, List.foldl_nil, hkey, aesdecOf_subBytes_shiftRows_aesencOf]

/-- Decryption undoes encryption for every schedule, and not only for the ones of a key. -/
theorem decryptBlock_encryptBlock (E : Schedule) (B : Block) : decryptBlock (encryptBlock B E) (expandDec E) = B := by
  have hfirst : roundKey (expandDec E) 10 = roundKey E 10 := roundKey_expandDec E 10 (by decide)
  have hlast : roundKey (expandDec E) 0 = roundKey E 0 := roundKey_expandDec E 0 (by decide)
  have hrounds := foldl_aesdecOf_reverse E [1, 2, 3, 4, 5, 6, 7, 8, 9] (by decide) (B ^^^ roundKey E 0)
  simp only [List.reverse_cons, List.reverse_nil, List.nil_append, List.cons_append] at hrounds
  simp only [decryptBlock, encryptBlock, aesenclastOf, hfirst, hlast, xor_xor_self, hrounds]
  rw [aesdeclastOf, invSubBytes_invShiftRows_subBytes_shiftRows, xor_xor_self]

/-- The left inverse of a surjection is its right inverse. -/
theorem encryptBlock_decryptBlock (E : Schedule) (B : Block) : encryptBlock (decryptBlock B (expandDec E)) E = B := by
  have hleft : Function.LeftInverse (fun B => decryptBlock B (expandDec E)) (fun B => encryptBlock B E) :=
    decryptBlock_encryptBlock E
  exact hleft.rightInverse_of_surjective (bijective_encryptBlock E).surjective B

/-- Settles O33: round by round, with the linearity of the inverse mix; the other order because encryption is onto. -/
theorem blockRoundTrip : Obligations.BlockRoundTrip :=
  fun K B => ⟨decryptBlock_encryptBlock (expandEnc K) B, encryptBlock_decryptBlock (expandEnc K) B⟩

/-- Settles O35: the encryption by evaluation, the decryption by the round trip. -/
theorem knownAnswer : Obligations.KnownAnswer := by
  unfold Obligations.KnownAnswer
  intro key plain cipher
  have henc : encryptBlock plain (expandEnc key) = cipher := by decide +kernel
  exact ⟨henc, henc ▸ decryptBlock_encryptBlock (expandEnc key) plain⟩

/-! ### The commands -/

theorem whenIdle_of_idle {s : State} (h : s.phase = .idle) (r : Result) : s.whenIdle r = r := by
  simp only [State.whenIdle, h]

/-- `ENCB` and `DECB` are one command up to its direction (42_blockcipher R193, R196). -/
theorem exec_block {s : State} {i : Instr} {d : Dir} (hi : i = .encb ∧ d = .enc ∨ i = .decb ∧ d = .dec)
    (hp : s.phase = .idle) : exec i s = s.whenKeyed (runSeq 11 (s.startBlock d)) := by
  rcases hi with ⟨rfl, rfl⟩ | ⟨rfl, rfl⟩ <;> exact whenIdle_of_idle hp _

/-- Settles O36: the rounds of the phase `BLK` leave the transform of `DIN`; without a key the guard raises `IllegalState`. -/
theorem blockCommands : Obligations.BlockCommands := by
  intro s i d hi hp hs
  rw [exec_block hi hp]
  refine ⟨fun hk => ?_, fun hk => if_neg (by simp [hk])⟩
  obtain ⟨m, v, hrun, hv⟩ := runSeq_startBlock d s
  obtain ⟨rfl, rfl⟩ := hv hs.2
  exact ⟨_, (if_pos hk).trans hrun, sparseGet_put_same hs.2, fun j hj => sparseGet_put_other hj⟩

end Sys2Proof.Proofs

/-! PROOF. The ParallelExecutor of 43_parallel: the assignment of the blocks, the range a worker writes, the join, and the call as a
whole. The run of a call to its join stands with the proofs about memory; here what the ended workers say of their blocks is read
off its invariant. -/

namespace Sys2Proof.Proofs

open Sys2Proof.Machine Sys2Proof.Laws

/-! ### The work assignment -/

/-- Settles O44: `min` and `max` at the boundaries. -/
theorem workerCountClamp : Obligations.WorkerCountClamp := by
  intro hint nblk
  refine ⟨rfl, fun _ _ => ?_, ?_, ?_, fun _ => ?_, ?_⟩ <;> unfold clampWorkers <;> omega

/-- A range is as long as R213 says. -/
theorem rangeLo_succ (base extra j : Nat) :
    rangeLo base extra (j + 1) = rangeLo base extra j + if j < extra then base + 1 else base := by
  simp only [rangeLo, Nat.add_mul, Nat.one_mul]
  split <;> omega

/-- No block lies in the ranges of two workers (43_parallel R213). -/
theorem range_unique {base extra i j k : Nat} (hj : rangeLo base extra j ≤ i ∧ i < rangeLo base extra (j + 1))
    (hk : rangeLo base extra k ≤ i ∧ i < rangeLo base extra (k + 1)) : j = k := by
  rcases Nat.lt_trichotomy j k with hlt | heq | hgt
  · have := rangeLo_mono base extra (show j + 1 ≤ k by omega)
    omega
  · exact heq
  · have := rangeLo_mono base extra (show k + 1 ≤ j by omega)
    omega

/-- When there are blocks, every worker of the clamp has at least `base`, and that is one or more. -/
theorem base_pos {hint nblk : Nat} (h : 1 ≤ nblk) : 1 ≤ nblk / clampWorkers hint nblk := by
  obtain ⟨-, -, -, -, hle, hpos⟩ := workerCountClamp hint nblk
  exact Nat.div_pos (hle h) hpos

/-- Settles O45: the ranges follow one another from 0 to `nblk`. -/
theorem rangesPartitionTheBlocks : Obligations.RangesPartitionTheBlocks := by
  intro hint nblk
  dsimp only
  have hend := rangeLo_end nblk (clampWorkers hint nblk) (Nat.le_max_left _ _)
  refine ⟨by simp [rangeLo], hend, fun j _ => rangeLo_succ _ _ j, fun i hi => ?_, fun h j _ => ?_⟩
  · rw [← hend] at hi
    obtain ⟨j, hj, hrange⟩ := exists_range hi
    exact ⟨j, ⟨hj, hrange⟩, fun k ⟨_, hk⟩ => range_unique hk hrange⟩
  · have := base_pos (hint := hint) h
    rw [rangeLo_succ]
    split <;> omega

/-! ### A worker's row -/

/-- A micro-operation of worker `j`'s row leaves memory alone or stores the worker's present block (43_parallel R217, R218). -/
theorem doMicroOp_workerRow_mem {s t u : State} {j : Nat} {w : Worker} {op : MicroOp} (hw : s.workers[j]? = some w)
    (ho : op ∈ workerRow s j) (h : doMicroOp op t = .next u) :
    u.mem = t.mem ∨ u.mem = memWrite t.mem (s.dst + 16 * w.cur) (t.readS j) := by
  cases hst : w.stage with
  | load =>
    obtain rfl | rfl : op = issue (.ldblk j (s.src + 16 * w.cur)) ∨ op = .loaded j := by
      simpa [workerRow, hw, hst] using ho
    · rw [doMicroOp_issue _ _ rfl rfl] at h
      exact .inl (onlyStblkWritesMemory (.ldblk j _) _ _ nofun h)
    · cases h
      exact .inl rfl
  | rounds =>
    obtain rfl | rfl : op = issue (roundPrim s.dir j w.wrnd) ∨ op = .rounded j := by
      simpa [workerRow, hw, hst] using ho
    · obtain ⟨hprim, hwf⟩ := roundPrim_ok s.dir j w.wrnd
      rw [doMicroOp_issue _ _ hprim hwf, exec_roundPrim] at h
      cases h
      exact .inl rfl
    · cases h
      exact .inl rfl
  | store =>
    obtain rfl | rfl : op = issue (.stblk (s.dst + 16 * w.cur) j) ∨ op = .stored j := by
      simpa [workerRow, hw, hst] using ho
    · rw [doMicroOp_issue _ _ rfl rfl] at h
      exact (exec_stblk_mem h).symm
    · cases h
      exact .inl rfl

/-- Settles O51: the one block a step can store is the one its worker is at. -/
theorem workerWritesItsOwnRange : Obligations.WorkerWritesItsOwnRange := by
  intro s t j w ops hp _ hw hlo hhi hreset hrow h a ha
  rcases step_cases h with ⟨op, rest, hu, h⟩ | ⟨hu, ⟨hi, -⟩ | ⟨-, rfl⟩ | ⟨-, hr, -⟩⟩
  · have ho : op ∈ workerRow s j := by
      rcases hrow with e | e | ⟨e, x, hx⟩
      · simp [e] at hu
      · simp [← e, hu]
      · simp [hx, ← e, hu]
    rcases doMicroOp_workerRow_mem hw ho h with e | e <;> rw [e]
    exact memByte_write_outside _ _ _ _ (by omega)
  · simp [hp] at hi
  · rcases runStep_cases s with ⟨hc, -⟩ | e | ⟨k, e⟩
    · exact absurd hc (hreset hu)
    · rw [e]; rfl
    · rw [e]
  · exact absurd hp hr

/-! ### The join -/

/-- The worker registers of no ended worker keep what they held (43_parallel R219; log 13). -/
theorem readS_discardCall_above (s : State) {j : Nat} (h : s.workers.length ≤ j) : s.discardCall.readS j = s.readS j :=
  List.foldlRecOn (motive := fun m => sparseGet unwrittenS m j = s.readS j) _ _ rfl fun _ ih i hi =>
    (sparseGet_put_other (by have := List.mem_range.1 hi; omega)).trans ih

theorem readS_joinCall_above (s : State) {j : Nat} (h : s.workers.length ≤ j) : s.joinCall.readS j = s.readS j := by
  rcases joinCall_cases s with ⟨-, e⟩ | ⟨f, -, e⟩ <;> rw [e] <;> exact readS_discardCall_above s h

theorem workers_joinCall (s : State) : s.joinCall.workers = [] := by
  rcases joinCall_cases s with ⟨-, e⟩ | ⟨f, -, e⟩ <;> rw [e] <;> rfl

theorem mem_joinCall (s : State) : s.joinCall.mem = s.mem := by
  rcases joinCall_cases s with ⟨-, e⟩ | ⟨f, -, e⟩ <;> rw [e] <;> rfl

/-- The join leaves alone what a call leaves alone (43_parallel R221). -/
theorem callFrame_joinCall {s t : State} (h : s.CallFrame t) : s.CallFrame t.joinCall := by
  obtain ⟨-, -, -, hkeyed⟩ := keyStoreSame_joinCall t
  unfold State.CallFrame
  rw [hkeyed]
  rcases joinCall_cases t with ⟨-, e⟩ | ⟨f, -, e⟩ <;> rw [e] <;> exact h

/-- Without a faulted worker the join ends the command with success (60_exceptions R277). -/
theorem joinCall_success {s : State} (h : ∀ w ∈ s.workers, w.wstat ≠ .fault) :
    s.joinCall.errcode = 0 ∧ s.joinCall.errinfo = 0 ∧ s.joinCall.err = false := by
  rw [joinCall_of_no_fault h]
  exact ⟨rfl, rfl, withErrBit_err false _⟩

theorem firstFault_eq_some {ws : List Worker} {f : Nat} {w : Worker} (hw : ws[f]? = some w) (hf : w.wstat = .fault)
    (hlow : ∀ j v, j < f → ws[j]? = some v → v.wstat ≠ .fault) : firstFault ws = some f := by
  obtain ⟨hlt, rfl⟩ := List.getElem?_eq_some_iff.1 hw
  refine List.findIdx?_eq_some_iff_getElem.2 ⟨hlt, by simp [hf], fun j hj => ?_⟩
  simpa using hlow j _ hj (List.getElem?_eq_getElem (by omega))

/-- With a faulted worker the join raises `WorkerFailure` with the lowest faulted index (43_parallel R219, 60_exceptions R278). -/
theorem joinCall_failure {s : State} {f : Nat} {w : Worker} (hw : s.workers[f]? = some w) (hf : w.wstat = .fault)
    (hlow : ∀ j v, j < f → s.workers[j]? = some v → v.wstat ≠ .fault) :
    s.joinCall.errcode = 3 ∧ s.joinCall.errinfo = BitVec.ofNat 32 f ∧ s.joinCall.err = true := by
  have hjoin : s.joinCall = s.discardCall.raise .workerFailure (BitVec.ofNat 32 f) := by
    simp only [State.joinCall, firstFault_eq_some hw hf hlow]
  rw [hjoin]
  exact ⟨rfl, rfl, withErrBit_err true _⟩

/-- Settles O52: the step of the join is `State.joinCall`. -/
theorem joinReportsFirstFault : Obligations.JoinReportsFirstFault := by
  intro s t _ hu h
  obtain rfl : State.joinCall { s with useq := [] } = t := Host.Outcome.next.inj ((step_inHand hu).symm.trans h)
  have hframe : s.CallFrame { s with useq := [] } :=
    ⟨rfl, rfl, rfl, rfl, rfl, rfl, rfl, rfl, rfl, rfl, rfl, rfl, rfl, rfl, rfl, rfl, rfl⟩
  exact ⟨⟨phase_joinCall _, useq_joinCall _⟩, workers_joinCall _, mem_joinCall _, callFrame_joinCall hframe,
    fun _ hj => readS_joinCall_above { s with useq := [] } hj, joinCall_success (s := { s with useq := [] }),
    fun _ _ hw => joinCall_failure (s := { s with useq := [] }) hw⟩

/-! ### The workers have ended -/

section Ended

variable {s r : State} {d : Dir} {i j : Nat} {w : Worker}

theorem OnCall.callFrame (h : OnCall s d r) : s.CallFrame r := by
  rw [h.frame]
  exact ⟨rfl, rfl, rfl, rfl, rfl, rfl, rfl, rfl, rfl, rfl, rfl, rfl, rfl, rfl, rfl, rfl, rfl⟩

/-- What the join of a call leaves, whatever the outcome. -/
theorem OnCall.joined (hs : s.CallLegal) (h : OnCall s d r) :
    (r.goto .join 0).joinCall.Quiet ∧ (r.goto .join 0).joinCall.MemOk ∧ (r.goto .join 0).joinCall.workers = [] ∧
      s.CallFrame (r.goto .join 0).joinCall ∧ (r.goto .join 0).joinCall.mem = r.mem :=
  ⟨⟨phase_joinCall _, (useq_joinCall _).trans (h.useq hs)⟩, (edits_joinCall _).keep (fun _ _ => memOk_edit) h.memOk,
    workers_joinCall _, callFrame_joinCall h.callFrame, mem_joinCall _⟩

/-- The range of worker `j` is that of the call (43_parallel R213). -/
theorem OnCall.range (h : OnCall s d r) (hw : r.workers[j]? = some w) : w.lo = s.callLo j ∧ w.hi = s.callLo (j + 1) := by
  obtain ⟨-, hlo, hhi⟩ := h.workersOk.1 j w hw
  rw [show r.base = s.callBlocks / s.callW from congrArg State.base h.frame,
    show r.extra = s.callBlocks % s.callW from congrArg State.extra h.frame] at hlo hhi
  exact ⟨hlo, hhi⟩

/-- A worker that has ended has done its range, or it has faulted at a block that is not admitted (43_parallel R217, R218). -/
theorem OnCall.ended (h : OnCall s d r) (hend : ∀ w ∈ r.workers, w.wstat ≠ .run) (hw : r.workers[j]? = some w) :
    w.wstat ≠ .fault ∧ w.cur = w.hi ∨ w.wstat = .fault ∧ w.cur < w.hi ∧ s.blockAdmitted w.cur = false := by
  have hworker := h.worker j w hw
  obtain ⟨⟨-, -, -, -, hdone⟩, -, -⟩ := h.workersOk.1 j w hw
  cases e : w.wstat with
  | idle => exact absurd e hworker.started
  | run => exact absurd e (hend w (List.mem_of_getElem? hw))
  | done => exact .inl ⟨nofun, hdone e⟩
  | fault => exact .inr ⟨rfl, hworker.refused e⟩

/-- The workers that end in `FAULT` are those whose range holds a block that is not admitted (43_parallel R218). -/
theorem OnCall.fault_iff (h : OnCall s d r) (hend : ∀ w ∈ r.workers, w.wstat ≠ .run) (hw : r.workers[j]? = some w) :
    w.wstat = .fault ↔ s.workerFaults j := by
  obtain ⟨elo, ehi⟩ := h.range hw
  obtain ⟨⟨hlo, -⟩, -⟩ := h.workersOk.1 j w hw
  rcases h.ended hend hw with ⟨hok, hcur⟩ | ⟨hf, hcur, hno⟩
  · refine iff_of_false hok fun ⟨i, hi, hlt, hno⟩ => ?_
    have hadm := (h.worker j w hw).passed i (by omega) (by omega)
    simp [hadm] at hno
  · exact iff_of_true hf ⟨w.cur, by omega, by omega, hno⟩

/-- The blocks the ended workers have stored are those R220 names. -/
theorem OnCall.done_iff_written (h : OnCall s d r) (hend : ∀ w ∈ r.workers, w.wstat ≠ .run) :
    blockDone r.workers i ↔ s.blockWritten i := by
  constructor
  · rintro ⟨j, w, hw, hlo, hcur⟩
    obtain ⟨elo, ehi⟩ := h.range hw
    obtain ⟨⟨-, hle, -⟩, -⟩ := h.workersOk.1 j w hw
    obtain ⟨hj, -⟩ := List.getElem?_eq_some_iff.1 hw
    exact ⟨j, h.count ▸ hj, by omega, by omega, fun k hk hki => (h.worker j w hw).passed k (by omega) (by omega)⟩
  · rintro ⟨j, hj, hlo, hhi, hadm⟩
    have hw := List.getElem?_eq_getElem (h.count ▸ hj : j < r.workers.length)
    obtain ⟨elo, ehi⟩ := h.range hw
    obtain ⟨⟨hle, -⟩, -⟩ := h.workersOk.1 j _ hw
    refine ⟨j, _, hw, by omega, ?_⟩
    rcases h.ended hend hw with ⟨-, hcur⟩ | ⟨-, -, hno⟩
    · omega
    · by_contra hge
      have := hadm _ (by omega) (Nat.not_lt.1 hge)
      simp [this] at hno

end Ended

/-! ### The call as a whole -/

/-- Settles O47: no worker faults, so the join ends with success and every block is stored. -/
theorem callTransformsTheBuffer : Obligations.CallTransformsTheBuffer := by
  intro s d hs hr hadm
  obtain ⟨n, r, hn, hrun, hcall, hwritten, huntouched⟩ := call_succeeds d hs hr hadm
  have hok := no_fault hcall hadm
  obtain ⟨hquiet, hmemOk, hnone, hframe, hmem⟩ := hcall.joined hs
  obtain ⟨hcode, hinfo, herr⟩ := joinCall_success (s := r.goto .join 0) hok
  rw [← joinCall_of_no_fault (r := r.goto .join 0) hok] at hrun
  refine ⟨_, n, _, exec_callInstr d hs, hn, hrun, hquiet, hmemOk, hcode, hinfo, herr, hnone, hframe, ?_, ?_⟩
  · rwa [hmem]
  · rw [hmem]
    exact fun a ha => huntouched a fun i hi => by omega

/-- Settles O48: the workers in `FAULT` at the join are those that met a refused block, and the blocks stored are those of R220. -/
theorem callReportsWorkerFailure : Obligations.CallReportsWorkerFailure := by
  intro s d f hs hr hf hfault hlow
  obtain ⟨n, r, hn, hrun, hcall, hend⟩ := call_reaches_join d hs hr
  obtain ⟨hquiet, hmemOk, hnone, hframe, hmem⟩ := hcall.joined hs
  have hw := List.getElem?_eq_getElem (hcall.count ▸ hf : f < r.workers.length)
  obtain ⟨hcode, hinfo, herr⟩ := joinCall_failure (s := r.goto .join 0) hw ((hcall.fault_iff hend hw).2 hfault)
    fun j v hj hv => mt (hcall.fault_iff hend hv).1 (hlow j hj)
  obtain ⟨hwritten, huntouched⟩ := hcall.memory.congr fun i => (hcall.done_iff_written hend (i := i)).symm
  refine ⟨_, n, _, exec_callInstr d hs, hn, hrun, hquiet, hmemOk, hcode, hinfo, herr, hnone, hframe, ?_, ?_⟩
  · rw [hmem]
    exact fun i _ => hwritten i
  · rw [hmem]
    refine fun a ha => huntouched a fun i hi => ha i ?_ hi
    exact hcall.nblk ▸ blockDone_lt hcall.workersOk ((hcall.done_iff_written hend).2 hi)

/-- What a call issued in `s` stores determines the memory it leaves: nothing else of the run is left in it (43_parallel R222). -/
theorem CallMemory.unique {s : State} {d : Dir} {p : Nat → Prop} {m m' : List Host.Cell} (h : CallMemory s d p m)
    (h' : CallMemory s d p m') (hm : memWf m = true) (hm' : memWf m' = true) : m = m' := by
  refine mem_ext hm hm' fun a => ?_
  by_cases ha : ∀ i, p i → a < s.dst + 16 * i ∨ s.dst + 16 * i + 16 ≤ a
  · rw [h.2 a ha, h'.2 a ha]
  · push Not at ha
    obtain ⟨i, hi, hlo, hhi⟩ := ha
    obtain ⟨k, rfl⟩ := Nat.exists_eq_add_of_le hlo
    rw [← byteOf_memRead m _ k (by omega), ← byteOf_memRead m' _ k (by omega), h.1 i hi, h'.1 i hi]

/-- Settles O49: neither the hint nor the list of choices stands in what a call stores. -/
theorem workerCountAndInterleavingInvisible : Obligations.WorkerCountAndInterleavingInvisible := by
  intro s d hint' sched' hs hr hr' hadm
  have hs' : State.CallLegal { s with hint := hint', sched := sched' } := hs
  obtain ⟨n, r, -, hrun, hcall, hmem⟩ := call_succeeds d hs hr hadm
  obtain ⟨n', r', -, hrun', hcall', hmem'⟩ := call_succeeds d hs' hr' hadm
  exact ⟨_, n, _, _, n', _, exec_callInstr d hs, hrun, ⟨rfl, hcall.useq hs⟩, exec_callInstr d hs', hrun',
    ⟨rfl, hcall'.useq hs'⟩, rfl, rfl, hmem.unique hmem' hcall.memOk.1 hcall'.memOk.1⟩

end Sys2Proof.Proofs

/-! PROOF. The Cipher Facade of 44_facade: the host's register accesses, the checks of the commands in their order, what `CONSTRUCT`
and `DESTROY` leave, and the round trip of a buffer, which is two calls joined by what the first one leaves alone. -/

namespace Sys2Proof.Proofs

open Sys2Proof.Machine Sys2Proof.Laws

/-! ### Two calls in a row -/

/-- A call that has ended without a reset leaves a core in which the host can issue the next one, from and to any buffers for which
that call is defined (44_facade R248, 20_memory R67). -/
theorem callLegal_again {s u : State} (hs : s.CallLegal) (hquiet : u.Quiet) (hmem : u.MemOk) (hframe : s.CallFrame u)
    (src dst : Nat) (hint : Word) (hdef : callDefined src dst (16 * s.callBlocks) = true) :
    State.CallLegal { u with src := src, dst := dst, hint := hint } := by
  obtain ⟨-, -, hkeyed, hlen, -⟩ := hs
  obtain ⟨eplat, -, -, -, -, -, -, -, -, -, -, -, elen, -, ekeyed, -, -⟩ := hframe
  refine ⟨hquiet, hmem, ekeyed.trans hkeyed, ?_, ?_⟩
  · simpa only [State.badLength, eplat, elen] using hlen
  · simpa only [State.callBlocks, elen] using hdef

/-- Buffers of `n` blocks that agree block by block agree byte by byte. -/
theorem memByte_of_memRead {m m' : List Host.Cell} {a a' n k : Nat}
    (h : ∀ i, i < n → memRead m (a + 16 * i) = memRead m' (a' + 16 * i)) (hk : k < 16 * n) :
    memByte m (a + k) = memByte m' (a' + k) := by
  have hmod : k % 16 < 16 := Nat.mod_lt k (by omega)
  have hbyte := congrArg (byteOf · (k % 16)) (h (k / 16) (by omega))
  simpa only [byteOf_memRead _ _ _ hmod, Nat.add_assoc, Nat.div_add_mod] using hbyte

/-- With the schedules of a key in the core, the transform of `DECRYPT` undoes that of `ENCRYPT` (42_blockcipher R197). -/
theorem blockOp_dec_enc {s : State} (hk : s.keyed = true) (hs : s.KeyStoreOk) (B : Block) :
    s.blockOp .dec (s.blockOp .enc B) = B := by
  obtain ⟨-, hdks⟩ := hs hk
  simp only [State.blockOp, hdks, decryptBlock_encryptBlock]

/-- Settles O50: the second call finds in its source what the first has stored, with the schedules it was stored by. -/
theorem bufferRoundTrip : Obligations.BufferRoundTrip := by
  rintro s c hint' hs hr ⟨-, hkeys⟩ hlen hadm hdef hc
  have ⟨_, _, hkeyed, _⟩ := hs
  have hbytes : 16 * s.callBlocks = s.len := by unfold State.callBlocks; omega
  rw [← hbytes] at hdef ⊢
  obtain ⟨n, r, -, hrun, hcall, hstored, -⟩ := call_succeeds .enc hs hr hadm
  obtain ⟨hquiet, hmemOk, -, hframe, hmem⟩ := hcall.joined hs
  have hok := no_fault hcall hadm
  rw [joinCall_of_no_fault (r := r.goto .join 0) hok] at hquiet hmemOk hframe hmem
  generalize hu : (r.goto .join 0).discardCall.ret = u at hrun hquiet hmemOk hframe hmem
  have hsched : u.NoReset := hu ▸ hcall.noReset
  have hs' := callLegal_again hs hquiet hmemOk hframe s.dst c hint' hdef
  obtain ⟨eplat, -, -, -, -, -, edks, -, -, -, -, -, elen, -⟩ := hframe
  have hblocks : State.callBlocks { u with src := s.dst, dst := c, hint := hint' } = s.callBlocks :=
    congrArg (· / 16) elen
  have hadm' : ∀ i, i < s.callBlocks →
      State.blockAdmitted { u with src := s.dst, dst := c, hint := hint' } i = true := fun i hi => by
    obtain ⟨-, hdst⟩ := Bool.and_eq_true_iff.1 (hadm i hi)
    simp only [State.blockAdmitted, eplat, hdst, hc i hi, Bool.and_self]
  obtain ⟨t', n', u', hexec', -, hrun', hquiet', -, hcode', -, -, -, -, hread, -⟩ :=
    callTransformsTheBuffer _ .dec hs' hsched (hblocks ▸ hadm')
  rw [hblocks] at hread
  refine ⟨_, n, u, t', n', u', exec_callInstr .enc hs, hrun, hquiet, hexec', hrun', hquiet', hcode', fun k hk =>
    memByte_of_memRead (fun i hi => ?_) hk⟩
  calc memRead u'.mem (c + 16 * i)
      = s.blockOp .dec (memRead r.mem (s.dst + 16 * i)) := by
        rw [hread i hi]; simp only [State.blockOp, edks, hmem]
    _ = s.blockOp .dec (s.blockOp .enc (memRead s.mem (s.src + 16 * i))) := by rw [hstored i hi]
    _ = memRead s.mem (s.src + 16 * i) := blockOp_dec_enc hkeyed hkeys _

/-! ### The host's operations -/

/-- No micro-operation reaches what the host still has to do. -/
theorem hostq_doMicroOp {op : MicroOp} {s t : State} (h : doMicroOp op s = .next t) : t.hostq = s.hostq := by
  cases op with
  | prim w r =>
    obtain ⟨i, hd, h⟩ := doMicroOp_prim h
    rcases execEffect_prim (decodePrim_prim hd).1 h with ⟨d, v, -, rfl⟩ | ⟨m, ms, ws, rfl⟩
    · exact writeReg_hostq s d v
    · rfl
  | move d a => cases h; exact writeReg_hostq s d _
  | probe => cases h; unfold State.probeStep; split <;> rfl
  | join => cases h; rcases joinCall_cases s with ⟨-, e⟩ | ⟨f, -, e⟩ <;> rw [e] <;> rfl
  | goto | keyed | ret | dispatch | loaded | rounded | stored => cases h; rfl

theorem hostq_runStep (s : State) : s.runStep.hostq = s.hostq := by
  rcases runStep_cases s with ⟨-, e⟩ | e | ⟨j, e⟩ <;> rw [e] <;> rfl

/-- Outside `IDLE` a host operation is refused (93_implementation_defined U5). -/
theorem whenIdle_of_busy {s : State} (h : s.phase ≠ .idle) (r : Result) : s.whenIdle r = .refused .hostWhileBusy := by
  unfold State.whenIdle
  split
  · exact absurd ‹_› h
  · rfl

/-- Settles O9: only a step in `IDLE` with nothing in hand looks at the host's operations, and every command and register access
passes the guard of `IDLE`. -/
theorem hostWaitsWhileBusy : Obligations.HostWaitsWhileBusy := by
  refine ⟨fun s t hbusy h => ?_, fun s i hbusy hi => ?_⟩
  · rcases step_cases h with ⟨op, ops, -, h⟩ | ⟨hu, ⟨hp, -⟩ | ⟨-, rfl⟩ | ⟨-, -, rfl⟩⟩
    · exact hostq_doMicroOp (s := { s with useq := ops }) h
    · exact absurd ⟨hp, hu⟩ hbusy
    · exact hostq_runStep s
    · rfl
  · cases i with
    | encrypt m | decrypt m => cases m; exact whenIdle_of_busy hbusy _
    | construct | encb | decb | destroy | crread | crwrite => exact whenIdle_of_busy hbusy _
    | _ => cases hi

/-- Settles O6: a step between commands does the host's next operation, and an access is the instruction it decodes to. -/
theorem stepRunsHostAccess : Obligations.StepRunsHostAccess := by
  refine ⟨fun s header p q i hs hq hd => ?_, fun s ⟨hp, hu⟩ hq => ?_⟩
  · rw [step_hostEvent hs hq]
    simp only [stepHostEvent, hd]
  · simp only [step, stepOf, hu, hp, stepIdle, hq]

/-- A decoded command word runs as the instruction it decodes to (44_facade R255). -/
theorem runCommand_eq_exec {w : BitVec 32} {i : Instr} (hd : decodeCommand w = .ok i) (s : State) :
    runCommand i s = exec i s := by
  obtain ⟨hword, -⟩ := encode_wf_of_decodeCommand hd
  cases i with
  | construct | encrypt | decrypt | encb | decb | destroy => rfl
  | _ => cases hword

/-- Settles O8: the write issues the word, and the frame of a command runs what the word decodes to. -/
theorem commandWriteRunsCommand : Obligations.CommandWriteRunsCommand := by
  intro s w i hs hd
  rw [exec_crwrite_cmd w hs]
  simp only [issueCommand, hd, runCommand_eq_exec hd]

/-- Settles O38, register by register. -/
theorem readControlRegister : Obligations.ReadControlRegister := by
  intro s n hs
  rw [exec_crread n hs]
  cases n <;> rfl

/-- Settles O39: an AW-bit value is stored as it is, and a read-only register ignores its write. -/
theorem writeControlRegister : Obligations.WriteControlRegister := by
  intro s v hs
  have hwrite (n : CR) (hn : n ≠ .cmd) := exec_crwrite v hs hn
  refine ⟨fun hv => ?_, hwrite .workers nofun, hwrite .keyin nofun, hwrite .din nofun, hwrite .status nofun,
    hwrite .errcode nofun, hwrite .errinfo nofun, hwrite .dout nofun⟩
  rw [hwrite .src nofun, hwrite .dst nofun, hwrite .len nofun]
  simp only [State.writeCR, Nat.mod_eq_of_lt hv, and_self]

/-! ### CONSTRUCT and DESTROY -/

/-- Settles O28: the 23 micro-steps of `CONSTRUCT` leave the key, its two schedules and the success record. -/
theorem constructExpandsTheKey : Obligations.ConstructExpandsTheKey := by
  intro s hs hk hw
  obtain ⟨k, t, u, hrun⟩ := runSeq_construct s hw
  exact ⟨_, _, _, _, (whenIdle_of_idle hs _).trans ((if_neg (by simp [hk])).trans hrun)⟩

/-- Settles O29: `KEYED` is tested before the first micro-step, which is the probe. -/
theorem constructErrors : Obligations.ConstructErrors :=
  ⟨fun _ hs hk => (whenIdle_of_idle hs _).trans (if_pos hk),
    fun s hs hk hw => (whenIdle_of_idle hs _).trans ((if_neg (by simp [hk])).trans (runSeq_construct_noHardware s hw))⟩

/-- Settles O37: nothing stands between the guard of `IDLE` and the return. -/
theorem destroyEndsTheInstance : Obligations.DestroyEndsTheInstance :=
  fun _ hs => ⟨_, _, _, _, whenIdle_of_idle hs _⟩

/-! ### ENCRYPT and DECRYPT before their workers -/

/-- `ENCRYPT` and `DECRYPT` are one command up to its direction (44_facade R244, R245). -/
theorem exec_call {s : State} (d : Dir) (hs : s.phase = .idle) : exec (callInstr d) s = s.whenKeyed (startCall d s) := by
  cases d <;> exact whenIdle_of_idle hs _

/-- The length check passes exactly the lengths R244 and R247 accept. -/
theorem badLength_eq_false_iff (s : State) :
    s.badLength = false ↔ s.len % 16 = 0 ∨ s.platform.lenPolicy = .truncate := by
  cases h : s.platform.lenPolicy <;> simp [State.badLength, h]

/-- Ranges that overlap and do not coincide make no defined call (20_memory R67). -/
theorem callDefined_overlap {src dst n : Nat} (hne : src ≠ dst) (h1 : src < dst + n) (h2 : dst < src + n) :
    callDefined src dst n = false := by
  simp only [callDefined, Bool.or_eq_false_iff, decide_eq_false_iff_not]
  omega

/-- Settles O43: the guards of a call in their order. -/
theorem callErrorsInOrder : Obligations.CallErrorsInOrder := by
  intro s d hs
  rw [exec_call d hs]
  refine ⟨fun hk => if_neg (by simp [hk]), fun hk hlen hpol => ?_, fun hk hlen _ hne h1 h2 => ?_⟩
  · exact (if_pos hk).trans (if_pos (by simp [State.badLength, hlen, hpol]))
  · rw [State.whenKeyed, if_pos hk, startCall, if_neg (by simp [(badLength_eq_false_iff s).2 hlen]),
      if_neg (by simp [callDefined_overlap hne h1 h2])]

/-- Settles O46: past the guards of a call stands the dispatch, which makes the workers of R214. -/
theorem callDispatchesItsWorkers : Obligations.CallDispatchesItsWorkers := by
  intro s d hs hk hlen hdef
  exact (exec_call d hs).trans ((if_pos hk).trans ((if_neg (by simp [hlen])).trans (if_pos hdef)))

end Sys2Proof.Proofs

/-! PROOF. What an error leaves behind (60_exceptions): the join of a call reads of its workers their statuses and their number, and
nothing else of what they or the dispatcher held. -/

namespace Sys2Proof.Proofs

open Sys2Proof.Machine Sys2Proof.Laws

/-! ### No state of a worker survives the join -/

/-- The step of the join row (43_parallel R219). -/
theorem step_join {s : State} (hu : s.useq = [.join]) : step s = .next (State.joinCall { s with useq := [] }) :=
  step_inHand hu

/-- The workers' statuses, which give their number too, are all the join reads of the workers and the dispatcher: what else they held
shows only in the map that the worker registers are redrawn over (60_exceptions R288; log 13). -/
theorem joinCall_congr (s : State) {ws : List Worker} (m : List (Nat × Block)) (d : Dir) (nblk wcount base extra : Nat)
    (hstat : ws.map (fun w => w.wstat) = s.workers.map (fun w => w.wstat)) :
    State.joinCall { s with
        sreg := m, workers := ws, dir := d, nblk := nblk, wcount := wcount, base := base, extra := extra } =
      { s.joinCall with sreg := redrawWorkerBlocks s.freeCount s.workers.length m } := by
  have hlen : ws.length = s.workers.length := by simpa using congrArg List.length hstat
  have hdiscard : State.discardCall { s with
        sreg := m, workers := ws, dir := d, nblk := nblk, wcount := wcount, base := base, extra := extra } =
      { s.discardCall with sreg := redrawWorkerBlocks s.freeCount s.workers.length m } := by
    simp only [State.discardCall, hlen]
  unfold State.joinCall
  rw [hdiscard, firstFault_congr hstat]
  cases firstFault s.workers <;> rfl

/-- The worker register of an ended worker is redrawn from the free values (log 13). -/
theorem readS_joinCall_ended {s : State} {j : Nat} (hwf : sparseWf unwrittenS s.sreg = true) (hj : j < s.workers.length) :
    s.joinCall.readS j = Config.freeBlock (s.freeCount + j) := by
  have hread := (readS_discardCall s j hwf).trans (if_pos hj)
  rcases joinCall_cases s with ⟨-, e⟩ | ⟨f, -, e⟩ <;> rw [e] <;> exact hread

/-- Settles O53: the two joins differ in the map their worker registers are redrawn over, and an ended worker's is redrawn. -/
theorem noWorkerStateSurvives : Obligations.NoWorkerStateSurvives := by
  intro s t m ws d nblk wcount base extra _ hu hstat h
  obtain rfl : State.joinCall { s with useq := [] } = t := Host.Outcome.next.inj ((step_join hu).symm.trans h)
  have hjoin := joinCall_congr { s with useq := [] } m d nblk wcount base extra hstat
  refine ⟨_, (step_join ?_).trans (congrArg Host.Outcome.next hjoin), rfl, fun ⟨_, hsreg⟩ hm j hj => ?_⟩
  · exact hu
  · have hredrawn := (sparseGet_redrawWorkerBlocks s.freeCount s.workers.length j hm).trans (if_pos hj)
    exact hredrawn.trans (readS_joinCall_ended (s := { s with useq := [] }) hsreg hj).symm

end Sys2Proof.Proofs

/-! PROOF. The host and buffer memory between commands (70_reset_and_hazards R317): whether the platform has every byte asked for
decides between the operation and its fault; memory's own laws say what the bytes are. -/

namespace Sys2Proof.Proofs

open Sys2Proof.Machine Sys2Proof.Laws

/-! ### The host's store and read -/

theorem bytesExist_eq_false_iff (p : Platform) (a n : Nat) :
    bytesExist p a n = false ↔ ∃ i, i < n ∧ memValid p (a + i) = false := by simp [bytesExist]

section
variable {s : State} {a : Nat} {q : List HostEvent} (hs : s.Quiet)
include hs

/-- A host store of bytes the platform has, between commands (20_memory R72). -/
theorem step_hostStore {bs : List Byte} (hq : s.hostq = .store a bs :: q)
    (hv : ∀ i, i < bs.length → memValid s.platform (a + i) = true) :
    step s = .next { s with hostq := q, mem := memSetBytes s.mem a bs } :=
  (step_hostEvent hs hq).trans (if_pos ((bytesExist_iff _ _ _).2 hv))

/-- A host store that reaches a byte the platform does not have (log 20). -/
theorem step_hostStore_absent {bs : List Byte} (hq : s.hostq = .store a bs :: q)
    (hv : ∃ i, i < bs.length ∧ memValid s.platform (a + i) = false) : step s = .fault (.hostStoreAbsent a) :=
  (step_hostEvent hs hq).trans (if_neg (Bool.eq_false_iff.1 ((bytesExist_eq_false_iff _ _ _).2 hv)))

/-- A host read that reaches a byte the platform does not have (log 29). -/
theorem step_hostLoad_absent {n : Nat} (hq : s.hostq = .load a n :: q)
    (hv : ∃ i, i < n ∧ memValid s.platform (a + i) = false) : step s = .fault (.hostLoadAbsent a) :=
  (step_hostEvent hs hq).trans (if_neg (Bool.eq_false_iff.1 ((bytesExist_eq_false_iff _ _ _).2 hv)))

end

/-- Settles O54: the bytes a store puts in place and those it leaves alone are the laws of `memSetBytes`; a read answers `memBytes`. -/
theorem hostWritesAndReadsMemory : Obligations.HostWritesAndReadsMemory := by
  refine ⟨fun s a bs q hs hm hq => ⟨fun hv => ?stored, step_hostStore_absent hs hq⟩,
    fun s a n q hs hq => ⟨fun hv => ?loaded, step_hostLoad_absent hs hq⟩⟩
  case stored =>
    obtain ⟨hmem, -⟩ := hm
    exact ⟨_, step_hostStore hs hq hv, memWf_setBytes bs a hmem, fun i hi => memByte_setBytes_inside bs a i hmem hi,
      fun b hb => memByte_setBytes_outside s.mem bs a b hb⟩
  case loaded =>
    exact ⟨_, step_hostLoad hs hq hv, memBytes_length s.mem a n, fun i hi => memBytes_getElem s.mem a n i hi⟩

end Sys2Proof.Proofs
